-- ==== Sys2Proof/Word.lean ====
section
/-! DEFINITION. The widths of the block's values (R4, R7, R23, R34). Every value is an unsigned bit vector. -/

namespace Sys2Proof

/-- A message byte: the only data unit the block takes (R23). -/
abbrev Byte := BitVec 8

/-- The width of the CRC register, 16 bits (R4, R10). -/
abbrev Word := BitVec 16

/-- A command word `{init, valid, data[7:0]}`, 10 bits (R33, R34). -/
abbrev CmdWord := BitVec 10

end Sys2Proof
end

