-- ==== Sys2Proof/Config.lean ====
section
/-! DEFINITION. What the spec leaves open: the two parameters of the config block (R5, R26, R66), which are arguments
of the config sequences, and the draws that stand for inputs the host leaves undriven (R77). -/

namespace Sys2Proof.Config

/-- `P_CFG_CRC_ORDER` (R26): which stored byte of the config block holds `crc[15:8]`. -/
inductive ByteOrder where
  /-- The byte at `sizeof(Config)-2` is `crc[15:8]`. -/
  | bigEndian
  /-- The byte at `sizeof(Config)-2` is `crc[7:0]`. -/
  | littleEndian
deriving DecidableEq, Repr

/-- The open parameters (R5). They are arguments, so a claim quantifies over them or names them (D15; log 7). -/
structure Params where
  /-- `P_CFG_LEN` = `sizeof(Config)-2`, the number of bytes the config CRC covers. -/
  cfgLen : Nat
  /-- `P_CFG_CRC_ORDER`. -/
  cfgCrcOrder : ByteOrder
deriving DecidableEq, Repr

/-- The level drawn for an undriven `rst` at edge `k` (R77): a free value, log 2. -/
opaque drawRst : Nat → Bool

/-- The level drawn for an undriven `init` at edge `k` (R77): a free value, log 2. -/
opaque drawInit : Nat → Bool

/-- The level drawn for an undriven `valid` at edge `k` (R77): a free value, log 2. -/
opaque drawValid : Nat → Bool

/-- The byte drawn for an undriven `data` at edge `k` (R77): a free value, log 2. -/
opaque drawData : Nat → Byte

end Sys2Proof.Config
end

