-- ==== Sys2Proof/Syntax.lean ====
section
/-! DEFINITION. The commands: one constructor per row of spec/opcode_table.json (R36). `RESET` is no command word but an
input port (R39), so it is no constructor; it stands in `Machine.Pins.rst` and `Machine.Stmt.reset`. -/

namespace Sys2Proof

/-- A command of the block. The ignored field `D` of `NOP` and `INIT` is no operand (R37), as in the decoder of R42. -/
inductive Instr where
  /-- `NOP`: no change (R46). -/
  | nop
  /-- `UPDATE d`: add the byte `d` to the current message (R47). -/
  | update (d : Byte)
  /-- `INIT`: start a new message (R48). -/
  | init
  /-- `INIT_UPDATE d`: start a new message whose first byte is `d` (R49). -/
  | initUpdate (d : Byte)
deriving DecidableEq, Repr

end Sys2Proof
end

