-- ==== Sys2Proof/WellFormed.lean ====
section
/-! DEFINITION. Which terms the spec admits. A command has nothing to check, since every command word is defined
(R38); what can be ill-formed is a number offered as a command word, an assembler operand, a payload, a received
buffer or a config block. -/

namespace Sys2Proof.WellFormed

/-- Every command is well-formed: "There are no illegal, reserved, hint or custom encodings" (R38). -/
def command : Instr → Bool
  | .nop => true
  | .update _ => true
  | .init => true
  | .initUpdate _ => true

/-- A command word has 10 bits (R34). -/
def commandWord (w : Nat) : Bool := decide (w < 1024)

/-- An assembler operand is one byte, 0..255 (R40). -/
def byteOperand (n : Nat) : Bool := decide (n ≤ 255)

/-- A frame's payload is 10 bytes (R59). -/
def payload (B : List Byte) : Bool := decide (B.length = 10)

/-- A received buffer holds a whole frame: "fewer than 12 bytes" is `BadLength` (R62). -/
def frameBuffer (R : List Byte) : Bool := decide (12 ≤ R.length)

/-- The bytes the config CRC covers: `P_CFG_LEN` of them (R66). -/
def configImage (p : Config.Params) (S : List Byte) : Bool := decide (S.length = p.cfgLen)

/-- A stored config block: the covered bytes and 2 CRC bytes (R66). -/
def configBlock (p : Config.Params) (K : List Byte) : Bool := decide (K.length = p.cfgLen + 2)

end Sys2Proof.WellFormed
end

