-- ==== Sys2Proof/Decode.lean ====
section
/-! DEFINITION. The command word's fields (R34), the opcode map (R36), the decoder (R42), the encoder, and the reading of
a number as a command word. -/

namespace Sys2Proof

/-- Bit 9, `I`: start a new message (R34). -/
def fieldI (w : CmdWord) : Bool := w.getLsbD 9

/-- Bit 8, `V`: add byte `D` (R34). -/
def fieldV (w : CmdWord) : Bool := w.getLsbD 8

/-- Bits 7:0, `D`: the message byte (R34). -/
def fieldD (w : CmdWord) : Byte := w.setWidth 8

/-- The command word `{init, valid, data}` (R33). -/
def cmdWord (i v : Bool) (d : Byte) : CmdWord := BitVec.ofBool i ++ BitVec.ofBool v ++ d

/-- The decoder of R42: the opcode is `{I, V}`, all four values listed. -/
def decode (w : CmdWord) : Instr :=
  match fieldI w, fieldV w with
  | false, false => .nop
  | false, true => .update (fieldD w)
  | true, false => .init
  | true, true => .initUpdate (fieldD w)

/-- The canonical word of a command: `D` is 0x00 in `NOP` and `INIT` (R37, R40). -/
def encode : Instr → CmdWord
  | .nop => cmdWord false false 0x00
  | .update d => cmdWord false true d
  | .init => cmdWord true false 0x00
  | .initUpdate d => cmdWord true true d

/-- A row of the opcode map: a word matches it when `(cmd & mask) == match` (R36). -/
structure OpcodeRow where
  matchBits : CmdWord
  mask : CmdWord
deriving DecidableEq, Repr

/-- The row of the opcode map a command stands in (R36). -/
def opcodeRow : Instr → OpcodeRow
  | .nop => ⟨0x000, 0x300⟩
  | .update _ => ⟨0x100, 0x300⟩
  | .init => ⟨0x200, 0x300⟩
  | .initUpdate _ => ⟨0x300, 0x300⟩

/-- The opcode map's four rows, in its order (R36). -/
def opcodeMap : List OpcodeRow := [⟨0x000, 0x300⟩, ⟨0x100, 0x300⟩, ⟨0x200, 0x300⟩, ⟨0x300, 0x300⟩]

/-- `(cmd & mask) == match` (R36). -/
def rowMatches (r : OpcodeRow) (w : CmdWord) : Bool := w &&& r.mask == r.matchBits

/-- Why a number is not decoded. No 10-bit word is ever refused (R38). -/
inductive DecodeError where
  /-- The number does not fit the 10 bits of a command word (R34). -/
  | widerThanCommandWord
deriving DecidableEq, Repr

/-- Any number read as a command word: total, refusing by name what has bits above bit 9 (R34;
DESIGN CHOICE, log 6). -/
def decodeNumber (w : Nat) : Except DecodeError Instr :=
  if WellFormed.commandWord w then .ok (decode (BitVec.ofNat 10 w)) else .error .widerThanCommandWord

/-- The command the decoder reads from the bits `w` of an opcode-table row. The command word has one fixed length
(R39), so `nbits` says nothing more. -/
def decodeTableWord (_nbits w : Nat) : Option Instr :=
  match decodeNumber w with
  | .ok i => some i
  | .error _ => none

end Sys2Proof
end

