-- ==== Sys2Proof/Machine/State.lean ====
section
/-! DEFINITION. The block's state (R10, R12, R19), the host's side of its ports (R32, R55, R80), the state after reset
and at power-up, and the reasons a step can stop. -/

namespace Sys2Proof.Machine

/-- The block's whole state (R19): the register, and whether it holds a value. -/
inductive CrcState where
  /-- Power-up, before any reset or start of a message (R12). -/
  | unknown
  /-- `crc` holds `v` (R10). -/
  | known (v : Word)
deriving DecidableEq, Repr

/-- The input pins at one rising edge (R32). `none` is an input the host leaves undriven (R77). -/
structure Pins where
  rst : Option Bool
  init : Option Bool
  valid : Option Bool
  data : Option Byte
deriving DecidableEq, Repr

/-- What the host can read between edges (R13, R14, R32). -/
inductive OutPort where
  | crcOut
  | crcHi
  | crcLo
  | residueZero
deriving DecidableEq, Repr

/-- A value read from an output port (R13, R14). -/
inductive Sample where
  | crcOut (v : Word)
  | crcHi (v : Byte)
  | crcLo (v : Byte)
  | residueZero (v : Bool)
deriving DecidableEq, Repr

/-- One thing the outside does to the block. -/
inductive HostAction where
  /-- A rising edge of `clk` with these inputs (R33). -/
  | edge (p : Pins)
  /-- The host reads an output between two edges (R55). -/
  | read (o : OutPort)
  /-- Time passes with `clk` stopped (R80). -/
  | clockStopped
  /-- Power is lost (R80). -/
  | powerLoss
deriving DecidableEq, Repr

/-- The block's state and, for a step that takes no argument, the host's side of the ports. -/
structure State where
  /-- The CRC register: all the state the block has (R10, R12, R15, R16, R17, R19). -/
  crc : CrcState
  /-- The model's own: what the host does next, oldest first (R15, R33: the program is the host's stream;
  DESIGN CHOICE, log 1). -/
  pending : List HostAction
  /-- The model's own: rising edges taken (R89), the index of the draws for undriven inputs (R77; DESIGN CHOICE, log 2). -/
  edges : Nat
  /-- The model's own: what the host's reads showed, oldest first (R55; DESIGN CHOICE, log 3). -/
  reads : List Sample
deriving DecidableEq, Repr

/-- Why the machine stops. -/
inductive Fault where
  /-- An output was read while the state is `unknown` (R12, R76). Raised by `readRegister`, so by a host read. Safe:
  a real block would show some value, and the model refuses to say which (D8). -/
  | unresetRead
deriving DecidableEq, Repr

/-- Why a command has no meaning. Every command has one, so no step is refused (R38, R76). -/
inductive Refusal where
  /-- A command without a meaning in the model, by its mnemonic. Raised by no arm of `exec`. Safe. -/
  | notModelled (mnemonic : String)
deriving DecidableEq, Repr

/-- The block right after reset, `crc` = 0x0000 (R20, R81), with nothing presented by the host (the other three fields:
DESIGN CHOICE, logs 1, 2, 3). -/
def State.reset : State := { crc := .known 0x0000, pending := [], edges := 0, reads := [] }

/-- The block at power-up, before any reset (R12, R20). -/
def State.powerUp : State := { crc := .unknown, pending := [], edges := 0, reads := [] }

end Sys2Proof.Machine
end

