-- ==== Sys2Proof/Machine/Operands.lean ====
section
/-! DEFINITION. The one operand form (R35) and the two bytes of a 16-bit value (R7). -/

namespace Sys2Proof.Machine

/-- The byte as it enters the register: `zext_16(D) << 8`, that is `{D, 0x00}` (R35). -/
def dataOperand (d : Byte) : Word := d.setWidth 16 <<< 8

/-- `c[15:8]` (R7). -/
def highByte (c : Word) : Byte := c.extractLsb' 8 8

/-- `c[7:0]` (R7). -/
def lowByte (c : Word) : Byte := c.extractLsb' 0 8

/-- `{hi, lo}`: the 16-bit value of two bytes, the first in the upper bits (R7, R25). -/
def joinBytes (hi lo : Byte) : Word := hi ++ lo

end Sys2Proof.Machine
end

