-- ==== Sys2Proof/Machine/Ops.lean ====
section
/-! DEFINITION. The update function and the operations on the CRC register. The block raises no exception and has no trap
entry or return (R72, R75), so no such operation exists; it has no memory (R22), so neither does a memory operation. -/

namespace Sys2Proof.Machine

/-- `POLY` (R4). -/
def poly : Word := 0x8005

/-- `INIT`, the "initial value 0" (R4), also the reset value (R20). -/
def initValue : Word := 0x0000

/-- The top bit, `r[15]` (R7, R43). -/
def topBit (r : Word) : Bool := r.getLsbD 15

/-- One round of the loop of R43. -/
def crcRound (r : Word) : Word := if topBit r then (r <<< 1) ^^^ poly else r <<< 1

/-- `n` rounds. -/
def crcRounds : Nat → Word → Word
  | 0, r => r
  | n + 1, r => crcRounds n (crcRound r)

/-- The one-byte update function (R43): XOR the byte into the high byte, then 8 rounds. -/
def step8 (c : Word) (d : Byte) : Word := crcRounds 8 (c ^^^ dataOperand d)

/-- `compute_crc16` (R1): the loop over the bytes from the initial value. -/
def crc16 (B : List Byte) : Word := B.foldl step8 initValue

/-- `T(x) = step8(0x0000, x)` (R44). -/
def tableT (x : Byte) : Word := step8 0x0000 x

/-- The next-state equations of R45, `n[0]` first; `t = c[15:8] ^ d`. -/
def parallelBits (c : Word) (t : Byte) : List Bool :=
  let c := c.getLsbD
  let t := t.getLsbD
  [ t 0 ^^ t 1 ^^ t 2 ^^ t 3 ^^ t 4 ^^ t 5 ^^ t 6 ^^ t 7,
    t 1 ^^ t 2 ^^ t 3 ^^ t 4 ^^ t 5 ^^ t 6 ^^ t 7,
    t 0 ^^ t 1,
    t 1 ^^ t 2,
    t 2 ^^ t 3,
    t 3 ^^ t 4,
    t 4 ^^ t 5,
    t 5 ^^ t 6,
    c 0 ^^ t 6 ^^ t 7,
    c 1 ^^ t 7,
    c 2,
    c 3,
    c 4,
    c 5,
    c 6,
    c 7 ^^ t 0 ^^ t 1 ^^ t 2 ^^ t 3 ^^ t 4 ^^ t 5 ^^ t 6 ^^ t 7 ]

/-- The register after an `UPDATE`: no value comes from no value (R12, R47). -/
def CrcState.addByte (d : Byte) : CrcState → CrcState
  | .known c => .known (step8 c d)
  | .unknown => .unknown

/-- The register at the start of a message (R48). -/
def CrcState.started : CrcState := .known initValue

/-- The register after a reset (R20, R81). -/
def CrcState.afterReset : CrcState := .known 0x0000

/-- The one way a step writes the register. -/
def State.withCrc (s : State) (c : CrcState) : State := { s with crc := c }

/-- The edge counter after one more edge (R89). -/
def State.countEdge (s : State) : State := { s with edges := s.edges + 1 }

/-- The host keeps a value it read (R55). -/
def State.logRead (s : State) (v : Sample) : State := { s with reads := s.reads ++ [v] }

/-- Synchronous reset, from any state, `unknown` included (R81). -/
def applyReset (s : State) : State := s.withCrc CrcState.afterReset

/-- A loss of power: the register holds no value (R80). The host's side is left as it is (DESIGN CHOICE, log 10). -/
def losePower (s : State) : State := s.withCrc .unknown

end Sys2Proof.Machine
end

