-- ==== Sys2Proof/Machine/Flags.lean ====
section
/-! DEFINITION. The block's only flag (R14). -/

namespace Sys2Proof.Machine

/-- `residue_zero`, a function of `crc` alone (R14). -/
def residueZero (c : Word) : Bool := c == 0x0000

end Sys2Proof.Machine
end

