-- ==== Sys2Proof/Machine/Outputs.lean ====
section
/-! DEFINITION. The output ports: read-only views of the register (R13, R14), which fault while it holds no value
(R12, R56). -/

namespace Sys2Proof.Machine

/-- `read(s)` of R56: the register's value, or `UnresetRead`. -/
def readRegister : CrcState → Except Fault Word
  | .known c => .ok c
  | .unknown => .error .unresetRead

/-- `crc_out` (R13). -/
def readCrcOut (c : CrcState) : Except Fault Word := readRegister c

/-- `crc_hi = crc[15:8]` (R13). -/
def readCrcHi (c : CrcState) : Except Fault Byte := (readRegister c).map highByte

/-- `crc_lo = crc[7:0]` (R13). -/
def readCrcLo (c : CrcState) : Except Fault Byte := (readRegister c).map lowByte

/-- `residue_zero` (R14). -/
def readResidueZero (c : CrcState) : Except Fault Bool := (readRegister c).map residueZero

/-- A read of one port (R55). -/
def readPort (o : OutPort) (c : CrcState) : Except Fault Sample :=
  match o with
  | .crcOut => (readCrcOut c).map Sample.crcOut
  | .crcHi => (readCrcHi c).map Sample.crcHi
  | .crcLo => (readCrcLo c).map Sample.crcLo
  | .residueZero => (readResidueZero c).map Sample.residueZero

end Sys2Proof.Machine
end

