-- ==== Sys2Proof/Machine/CrcCommands.lean ====
section
/-! DEFINITION. The meanings of the four commands (R46 to R49). Each writes `crc` or nothing; none raises anything. -/

namespace Sys2Proof.Machine

/-- `NOP` (R46): no change, from `known` and from `unknown`. -/
def execNop (s : State) : Host.Outcome State Fault Refusal := .next s

/-- `UPDATE d` (R47). -/
def execUpdate (d : Byte) (s : State) : Host.Outcome State Fault Refusal :=
  .next (s.withCrc (s.crc.addByte d))

/-- `INIT` (R48). -/
def execInit (s : State) : Host.Outcome State Fault Refusal := .next (s.withCrc CrcState.started)

/-- `INIT_UPDATE d` (R49): the initial value is taken in place of `crc`, and the byte is added in the same step. -/
def execInitUpdate (d : Byte) (s : State) : Host.Outcome State Fault Refusal :=
  .next (s.withCrc (CrcState.started.addByte d))

end Sys2Proof.Machine
end

