-- ==== Sys2Proof/Machine/Dispatch.lean ====
section
/-! DEFINITION. One arm per command. -/

namespace Sys2Proof.Machine

def exec (i : Instr) (s : State) : Host.Outcome State Fault Refusal :=
  match i with
  | .nop => Sys2Proof.Machine.execNop s
  | .update d => Sys2Proof.Machine.execUpdate d s
  | .init => Sys2Proof.Machine.execInit s
  | .initUpdate d => Sys2Proof.Machine.execInitUpdate d s

end Sys2Proof.Machine
end

