-- ==== Sys2Proof/Machine/Edge.lean ====
section
/-! DEFINITION. A rising edge (R33, R74, R77, R81), the block's step as the spec writes it (R56), and what each action of
the host does to the state (R55, R80). -/

namespace Sys2Proof.Machine

/-- The pins that present a command word with `rst` at a level (R33). -/
def Pins.driven (rst : Bool) (cmd : CmdWord) : Pins :=
  { rst := some rst, init := some (fieldI cmd), valid := some (fieldV cmd), data := some (fieldD cmd) }

/-- The host drives nothing (R77). -/
def Pins.undriven : Pins := { rst := none, init := none, valid := none, data := none }

/-- `rst` as the block samples it at edge `k`; an undriven pin is a draw (R77). -/
def sampledRst (k : Nat) (p : Pins) : Bool := p.rst.getD (Config.drawRst k)

/-- The command word as the block samples it at edge `k` (R33); an undriven pin is a draw (R77). -/
def sampledCmd (k : Nat) (p : Pins) : CmdWord :=
  cmdWord (p.init.getD (Config.drawInit k)) (p.valid.getD (Config.drawValid k)) (p.data.getD (Config.drawData k))

/-- One rising edge: reset overrides any command word (R74, R81), else the sampled word is performed (R33). -/
def clockEdge (p : Pins) (s : State) : Host.Outcome State Fault Refusal :=
  if sampledRst s.edges p then .next (applyReset s.countEdge)
  else exec (decode (sampledCmd s.edges p)) s.countEdge

/-- `blockStep` of R56, on the block's state alone. -/
def blockStep (c : CrcState) (rst : Bool) (cmd : CmdWord) : CrcState :=
  if rst then .known 0x0000
  else
    match decode cmd with
    | .nop => c
    | .update d =>
      match c with
      | .known v => .known (step8 v d)
      | .unknown => .unknown
    | .init => .known 0x0000
    | .initUpdate d => .known (step8 0x0000 d)

/-- What an action of the host does: an edge, a read (R55), a stopped clock (R80), a loss of power (R80). -/
def hostAction (a : HostAction) (s : State) : Host.Outcome State Fault Refusal :=
  match a with
  | .edge p => clockEdge p s
  | .read o =>
    match readPort o s.crc with
    | .ok v => .next (s.logRead v)
    | .error f => .fault f
  | .clockStopped => .next s
  | .powerLoss => .next (losePower s)

/-- What the host does next, and the state with that action taken from the list. Where the host presents nothing, the
next edge comes with undriven inputs (R77; DESIGN CHOICE, log 1). -/
def takeAction (s : State) : HostAction × State :=
  match s.pending with
  | [] => (.edge Pins.undriven, s)
  | a :: rest => (a, { s with pending := rest })

/-- The host presents `w`, `rst` = 0, at the very next edge, ahead of what it presents after (log 8). Only
the low 10 bits have wires (R34; DESIGN CHOICE, log 6). -/
def presentWord (w : Nat) (s : State) : State :=
  { s with pending := .edge (Pins.driven false (BitVec.ofNat 10 w)) :: s.pending }

end Sys2Proof.Machine
end

