-- ==== Sys2Proof/Machine/Step.lean ====
section
/-! DEFINITION. One step: the host's next action. -/

namespace Sys2Proof.Machine

/-- Take the host's next action and perform it. -/
def step (s : State) : Host.Outcome State Fault Refusal :=
  hostAction (takeAction s).1 (takeAction s).2

/-- `s` with the command word `w` presented at the next edge. The command word has one fixed length (R39), so `nbits`
says nothing more; only the word's 10 bits have wires (R34). -/
def State.withFetchWord (s : State) (_nbits w : Nat) : State := presentWord w s

end Sys2Proof.Machine
end

