-- ==== Sys2Proof/Machine/Assembler.lean ====
section
/-! DEFINITION. The assembler (R40) and the byte-sequence pseudo-instructions (R41). Text is a list of characters. What
R40 leaves open of the text's form is a DESIGN CHOICE, log 5. -/

namespace Sys2Proof.Machine

/-- An assembler statement, one per clock edge (R40). `reset` is the only one that drives `rst`. -/
inductive Stmt where
  | nop
  | update (d : Byte)
  | init
  | initUpdate (d : Byte)
  | reset
deriving DecidableEq, Repr

/-- Why a line is an assembler error (R40). -/
inductive AsmError where
  /-- No statement or pseudo-instruction has this name. -/
  | unknownMnemonic
  /-- A missing operand, one that is no byte, or one where none is taken. -/
  | badOperand
deriving DecidableEq, Repr

/-- The statement's command word (R40). -/
def stmtWord : Stmt → CmdWord
  | .nop => 0x000
  | .update d => 0x100 ||| d.setWidth 10
  | .init => 0x200
  | .initUpdate d => 0x300 ||| d.setWidth 10
  | .reset => 0x000

/-- The level the statement drives on `rst` (R40). -/
def stmtRst : Stmt → Bool
  | .nop => false
  | .update _ => false
  | .init => false
  | .initUpdate _ => false
  | .reset => true

/-- The edge at which a statement is presented (R40). -/
def stmtAction (x : Stmt) : HostAction := .edge (Pins.driven (stmtRst x) (stmtWord x))

/-- `FEED B` (R41). -/
def feed (B : List Byte) : List Stmt := B.map .update

/-- `START B` (R41, D19). -/
def start : List Byte → List Stmt
  | [] => [.init]
  | b :: B => .initUpdate b :: feed B

/-- The value of a decimal digit. -/
def decDigit (c : Char) : Option Nat :=
  if 48 ≤ c.toNat ∧ c.toNat ≤ 57 then some (c.toNat - 48) else none

/-- The value of a hexadecimal digit, either case. -/
def hexDigit (c : Char) : Option Nat :=
  if 48 ≤ c.toNat ∧ c.toNat ≤ 57 then some (c.toNat - 48)
  else if 65 ≤ c.toNat ∧ c.toNat ≤ 70 then some (c.toNat - 55)
  else if 97 ≤ c.toNat ∧ c.toNat ≤ 102 then some (c.toNat - 87)
  else none

/-- The value of a digit string, most significant digit first, on top of `acc`. -/
def digitsValue (base : Nat) (digit : Char → Option Nat) (acc : Nat) : List Char → Option Nat
  | [] => some acc
  | c :: cs =>
    match digit c with
    | some v => digitsValue base digit (acc * base + v) cs
    | none => none

/-- A number "in hexadecimal with `0x` or as a decimal" (R40). -/
def numberValue : List Char → Option Nat
  | [] => none
  | '0' :: 'x' :: h :: hs => digitsValue 16 hexDigit 0 (h :: hs)
  | c :: cs => digitsValue 10 decDigit 0 (c :: cs)

/-- An operand: one byte, "Any other operand is an assembler error" (R40). -/
def operandByte (cs : List Char) : Except AsmError Byte :=
  match numberValue cs with
  | some n => if WellFormed.byteOperand n then .ok (BitVec.ofNat 8 n) else .error .badOperand
  | none => .error .badOperand

/-- Spaces dropped at both ends. -/
def trimSpaces (cs : List Char) : List Char :=
  ((cs.dropWhile (· == ' ')).reverse.dropWhile (· == ' ')).reverse

/-- The pieces of a list between its commas; always at least one. -/
def splitCommas : List Char → List (List Char)
  | [] => [[]]
  | c :: cs =>
    match splitCommas cs with
    | [] => [[c]]
    | p :: ps => if c == ',' then [] :: p :: ps else (c :: p) :: ps

/-- Every piece an operand, or the first error. -/
def operandBytes : List (List Char) → Except AsmError (List Byte)
  | [] => .ok []
  | p :: ps =>
    match operandByte (trimSpaces p), operandBytes ps with
    | .ok b, .ok B => .ok (b :: B)
    | .error e, _ => .error e
    | .ok _, .error e => .error e

/-- A byte sequence `[b0, ..., b(n-1)]` (R41). -/
def byteList (cs : List Char) : Except AsmError (List Byte) :=
  match cs, cs.reverse with
  | '[' :: _, ']' :: _ =>
    let inside := trimSpaces (cs.tail.dropLast)
    if inside.isEmpty then .ok [] else operandBytes (splitCommas inside)
  | _, _ => .error .badOperand

/-- A statement that takes no operand (R40). -/
def withoutOperand (ops : List Char) (x : Stmt) : Except AsmError (List Stmt) :=
  if ops.isEmpty then .ok [x] else .error .badOperand

/-- One assembler line: a statement of R40, or `FEED` or `START` with its expansion (R41). -/
def assembleLine (line : List Char) : Except AsmError (List Stmt) :=
  let text := trimSpaces line
  let name := text.takeWhile (· != ' ')
  let ops := trimSpaces (text.dropWhile (· != ' '))
  if name = ['N', 'O', 'P'] then withoutOperand ops .nop
  else if name = ['U', 'P', 'D', 'A', 'T', 'E'] then (operandByte ops).map fun d => [.update d]
  else if name = ['I', 'N', 'I', 'T'] then withoutOperand ops .init
  else if name = ['I', 'N', 'I', 'T', '_', 'U', 'P', 'D', 'A', 'T', 'E'] then
    (operandByte ops).map fun d => [.initUpdate d]
  else if name = ['R', 'E', 'S', 'E', 'T'] then withoutOperand ops .reset
  else if name = ['F', 'E', 'E', 'D'] then (byteList ops).map feed
  else if name = ['S', 'T', 'A', 'R', 'T'] then (byteList ops).map start
  else .error .unknownMnemonic

/-- A hexadecimal digit as text. -/
def hexChar (n : Nat) : Char := if n < 10 then Char.ofNat (48 + n) else Char.ofNat (55 + n)

/-- A byte as `0xHH` (R40). -/
def byteText (d : Byte) : List Char := ['0', 'x', hexChar (d.toNat / 16), hexChar (d.toNat % 16)]

/-- A statement as R40 writes it. -/
def stmtText : Stmt → List Char
  | .nop => ['N', 'O', 'P']
  | .update d => ['U', 'P', 'D', 'A', 'T', 'E', ' '] ++ byteText d
  | .init => ['I', 'N', 'I', 'T']
  | .initUpdate d => ['I', 'N', 'I', 'T', '_', 'U', 'P', 'D', 'A', 'T', 'E', ' '] ++ byteText d
  | .reset => ['R', 'E', 'S', 'E', 'T']

end Sys2Proof.Machine
end

