-- ==== Sys2Proof/Machine/Frame.lean ====
section
/-! DEFINITION. What the host holds: a frame's payload (R59, R61), the config block's bytes (R66), and the results and
error names (R62, R68, R71, C2). -/

namespace Sys2Proof.Machine

/-- A payload's fields in wire order (R59). The order of the bytes inside a field is of no matter to the block (R27;
log 9). -/
structure Payload where
  channelOrZero : Byte
  commandCode : Byte
  hwId0 : Byte
  hwId1 : Byte
  hwId2 : Byte
  dataByte : Byte
  powerNow0 : Byte
  powerNow1 : Byte
  powerTotal0 : Byte
  powerTotal1 : Byte
deriving DecidableEq, Repr

/-- The 10 bytes the frame CRC covers, offsets 0 to 9 (R59). -/
def payloadBytes (P : Payload) : List Byte :=
  [P.channelOrZero, P.commandCode, P.hwId0, P.hwId1, P.hwId2, P.dataByte, P.powerNow0, P.powerNow1, P.powerTotal0,
    P.powerTotal1]

/-- `command_code` of a poll or report (R59). -/
def codePoll : Byte := 4

/-- `command_code` of a switch (R59). -/
def codeSwitch : Byte := 5

/-- `command_code` of a pairing-ack (R59). -/
def codePairingAck : Byte := 17

/-- The payload `encode(command, channel, hw_id, data_byte)` builds: the four reserved bytes are 0xFF (R61). -/
def outboundPayload (command channel hwId0 hwId1 hwId2 dataByte : Byte) : Payload :=
  { channelOrZero := channel, commandCode := command, hwId0 := hwId0, hwId1 := hwId1, hwId2 := hwId2,
    dataByte := dataByte, powerNow0 := 0xFF, powerNow1 := 0xFF, powerTotal0 := 0xFF, powerTotal1 := 0xFF }

/-- A frame on the wire: the payload, then its CRC big-endian (R59, R25). -/
def frameBytes (P : Payload) : List Byte :=
  payloadBytes P ++ [highByte (crc16 (payloadBytes P)), lowByte (crc16 (payloadBytes P))]

/-- The CRC part of `decode`'s result (R62). -/
inductive FrameResult where
  | ok
  | badLength
  | badCrc
deriving DecidableEq, Repr

/-- The CRC step of `load()`'s result (R68). -/
inductive ConfigResult where
  | ok
  | configCrcMismatch
deriving DecidableEq, Repr

/-- The source's error taxonomy (R71). The block has no part in the last two. -/
inductive SourceError where
  | frameTooShort
  | frameCrcMismatch
  | configCrcMismatch
  | registryFull
  | invalidCommand
deriving DecidableEq, Repr

/-- The taxonomy's name for a frame check's result (R71, C2). -/
def frameError : FrameResult → Option SourceError
  | .ok => none
  | .badLength => some .frameTooShort
  | .badCrc => some .frameCrcMismatch

/-- The taxonomy's name for a config check's result (R71, C2). -/
def configError : ConfigResult → Option SourceError
  | .ok => none
  | .configCrcMismatch => some .configCrcMismatch

/-- The bytes the config CRC covers: `P_CFG_LEN` of them (R66, R67). Other lengths are no term
(DESIGN CHOICE, log 11). -/
structure ConfigImage (p : Config.Params) where
  bytes : List Byte
  length_eq : bytes.length = p.cfgLen

/-- A stored config block: the covered bytes and 2 CRC bytes (R66, R68; DESIGN CHOICE, log 11). -/
structure ConfigBlock (p : Config.Params) where
  bytes : List Byte
  length_eq : bytes.length = p.cfgLen + 2

/-- The stored CRC's two bytes in the order `P_CFG_CRC_ORDER` gives (R26). -/
def storedCrcBytes (order : Config.ByteOrder) (c : Word) : List Byte :=
  match order with
  | .bigEndian => [highByte c, lowByte c]
  | .littleEndian => [lowByte c, highByte c]

/-- The stored CRC two bytes of a config block stand for (R26, R68). -/
def storedCrc (order : Config.ByteOrder) (k0 k1 : Byte) : Word :=
  match order with
  | .bigEndian => joinBytes k0 k1
  | .littleEndian => joinBytes k1 k0

end Sys2Proof.Machine
end

