-- ==== Sys2Proof/Machine/Sequences.lean ====
section
/-! DEFINITION. The host's sequences on the block (R60, R62, R63, R67, R68). They are host duties, expanded into the
statements of R40 and R41 and reads of the outputs (R55). -/

namespace Sys2Proof.Machine

/-- Go on from a next state; stop at the first fault, which is kept (R76). -/
def andThen {α β : Type} (o : Host.Outcome α Fault Refusal) (k : α → Host.Outcome β Fault Refusal) :
    Host.Outcome β Fault Refusal :=
  match o with
  | .next a => k a
  | .fault f => .fault f
  | .refused r => .refused r

/-- A read of an output inside a sequence; it leaves the block as it is (R29, R55). -/
def hostRead {α : Type} (r : Except Fault α) : Host.Outcome α Fault Refusal :=
  match r with
  | .ok v => .next v
  | .error f => .fault f

/-- The host's actions, one after another (R30). -/
def runActions : List HostAction → State → Host.Outcome State Fault Refusal
  | [], s => .next s
  | a :: rest, s => andThen (hostAction a s) (runActions rest)

/-- Statements, one per clock edge (R40). -/
def runStmts (xs : List Stmt) (s : State) : Host.Outcome State Fault Refusal := runActions (xs.map stmtAction) s

/-- `k` steps of the machine; a fault stops the run and is kept (R76). -/
def runSteps : Nat → State → Host.Outcome State Fault Refusal
  | 0, s => .next s
  | k + 1, s => andThen (step s) (runSteps k)

/-- `GEN_FRAME_CRC P` (R60): the frame the host sends. -/
def genFrameCrc (P : Payload) (s : State) : Host.Outcome (State × List Byte) Fault Refusal :=
  andThen (runStmts (start (payloadBytes P)) s) fun t =>
  andThen (hostRead (readCrcHi t.crc)) fun hi =>
  andThen (hostRead (readCrcLo t.crc)) fun lo =>
  .next (t, payloadBytes P ++ [hi, lo])

/-- `CHECK_FRAME R` (R62): the length check first, then the comparison; bytes from offset 12 on are ignored (R64). -/
def checkFrame (R : List Byte) (s : State) : Host.Outcome (State × FrameResult) Fault Refusal :=
  if WellFormed.frameBuffer R then
    andThen (runStmts (start (R.take 10)) s) fun t =>
    andThen (hostRead (readCrcOut t.crc)) fun c =>
    .next (t, if c = joinBytes (R.getD 10 0) (R.getD 11 0) then .ok else .badCrc)
  else .next (s, .badLength)

/-- `CHECK_FRAME_RESIDUE R` (R63): payload and CRC bytes are fed, and `residue_zero` is the answer. -/
def checkFrameResidue (R : List Byte) (s : State) : Host.Outcome (State × FrameResult) Fault Refusal :=
  if WellFormed.frameBuffer R then
    andThen (runStmts (start (R.take 12)) s) fun t =>
    andThen (hostRead (readResidueZero t.crc)) fun z =>
    .next (t, if z then .ok else .badCrc)
  else .next (s, .badLength)

/-- `GEN_CONFIG_CRC S` (R67): the block handed to `write_block`. -/
def genConfigCrc (p : Config.Params) (S : ConfigImage p) (s : State) :
    Host.Outcome (State × List Byte) Fault Refusal :=
  andThen (runStmts (start S.bytes) s) fun t =>
  andThen (hostRead (readCrcOut t.crc)) fun c =>
  .next (t, S.bytes ++ storedCrcBytes p.cfgCrcOrder c)

/-- `CHECK_CONFIG K` (R68), the comparison form. -/
def checkConfig (p : Config.Params) (K : ConfigBlock p) (s : State) :
    Host.Outcome (State × ConfigResult) Fault Refusal :=
  andThen (runStmts (start (K.bytes.take p.cfgLen)) s) fun t =>
  andThen (hostRead (readCrcOut t.crc)) fun c =>
  .next (t, if c = storedCrc p.cfgCrcOrder (K.bytes.getD p.cfgLen 0) (K.bytes.getD (p.cfgLen + 1) 0) then .ok
    else .configCrcMismatch)

/-- The residue form of the config check, over all `L + 2` bytes; the host may use it only where `P_CFG_CRC_ORDER` is
`BigEndian` (R68). -/
def checkConfigResidue (p : Config.Params) (K : ConfigBlock p) (s : State) :
    Host.Outcome (State × ConfigResult) Fault Refusal :=
  andThen (runStmts (start K.bytes) s) fun t =>
  andThen (hostRead (readResidueZero t.crc)) fun z =>
  .next (t, if z then .ok else .configCrcMismatch)

end Sys2Proof.Machine
end

