-- ==== Sys2Proof/Certificates/Slice0/Obligations.lean ====
section
/-! DEFINITION. The statements for the provers. Each docstring names the rule it formalises, or what it rests on. -/

open Sys2Proof Sys2Proof.Machine

/-! ## Commands -/

/-- R46 whole: encoding, any `D`, no change from `known` or `unknown`, no exception, NOPs inside a message, the example. -/
def Obligations.NopChangesNothing : Prop :=
  (∀ w : CmdWord, w &&& 0x300 = 0x000 → decode w = .nop) ∧
  (∀ s, exec .nop s = .next s) ∧
  (∀ (xs ys : List Stmt) (s : State), ∃ t u, runStmts (xs ++ .nop :: ys) s = .next t ∧
    runStmts (xs ++ ys) s = .next u ∧ t.crc = u.crc) ∧
  (∀ s, s.crc = .known 0x8005 → exec (decode 0x0A5) s = .next s)

/-- R47 whole: encoding and operand, `step8` from `known`, `unknown` kept and a later read faulting, the flag, the corner
cases, the example. -/
def Obligations.UpdateAddsOneByte : Prop :=
  (∀ w : CmdWord, w &&& 0x300 = 0x100 → decode w = .update (w.extractLsb' 0 8)) ∧
  (∀ s c d, s.crc = .known c → exec (.update d) s = .next { s with crc := .known (step8 c d) }) ∧
  (∀ s d, s.crc = .unknown → exec (.update d) s = .next s ∧ ∀ o, readPort o s.crc = .error .unresetRead) ∧
  (∀ c d, readResidueZero (.known (step8 c d)) = .ok (decide (step8 c d = 0x0000))) ∧
  step8 0x0000 0x00 = 0x0000 ∧
  (∀ c, step8 c (highByte c) = joinBytes (lowByte c) 0x00) ∧
  (∀ d, Function.Bijective fun c => step8 c d) ∧
  (∀ s, s.crc = .known 0x1234 → exec (decode 0x156) s = .next { s with crc := .known 0x3598 })

/-- R48 whole: encoding, any `D`, 0x0000 from `known` and `unknown`, the flag, INIT repeated, the empty message, the
example. -/
def Obligations.InitStartsMessageAtZero : Prop :=
  (∀ w : CmdWord, w &&& 0x300 = 0x200 → decode w = .init) ∧
  (∀ s, exec .init s = .next { s with crc := .known 0x0000 }) ∧
  readResidueZero (.known 0x0000) = .ok true ∧
  (∀ s, runStmts [.init] s = .next { s with crc := .known (crc16 []), edges := s.edges + 1 }) ∧
  (∀ n s, ∃ t, runStmts (List.replicate (n + 1) .init) s = .next t ∧ t.crc = .known 0x0000) ∧
  (∀ s, s.crc = .known 0x3598 → exec (decode 0x200) s = .next { s with crc := .known 0x0000 })

/-- R49 whole: encoding and operand, `T(d)` from any state, the flag, one edge in place of INIT then UPDATE, the next
message right after the last byte of the one before, the example. -/
def Obligations.InitUpdateStartsMessageWithByte : Prop :=
  (∀ w : CmdWord, w &&& 0x300 = 0x300 → decode w = .initUpdate (w.extractLsb' 0 8)) ∧
  (∀ s d, exec (.initUpdate d) s = .next { s with crc := .known (tableT d) }) ∧
  (∀ d, readResidueZero (.known (tableT d)) = .ok (decide (d = 0x00))) ∧
  (∀ s d, ∃ t u, runStmts [.initUpdate d] s = .next t ∧ runStmts [.init, .update d] s = .next u ∧ t.crc = u.crc) ∧
  (∀ A d s, ∃ t, runStmts (start A ++ [.initUpdate d]) s = .next t ∧ t.crc = .known (tableT d)) ∧
  (∀ s, exec (decode 0x331) s = .next { s with crc := .known 0x80A5 })

/-- The frame of every command: it completes, and writes the register or nothing (R11, R17, R46 to R49). The block has no
memory and no other register. -/
def Obligations.CommandsWriteOnlyCrc : Prop :=
  ∀ i s, ∃ t, exec i s = .next t ∧ t.pending = s.pending ∧ t.edges = s.edges ∧ t.reads = s.reads ∧
    (i = .nop → t.crc = s.crc) ∧ (∀ d, i = .update d → s.crc = .unknown → t.crc = .unknown)

/-! ## The update function -/

/-- R43 whole: the pseudocode written out again, the top bit read before each round's shift. -/
def Obligations.Step8IsEightRoundLoop : Prop :=
  ∀ (c : Word) (d : Byte),
    step8 c d = (fun r : Word => if r.msb then (r <<< 1) ^^^ 0x8005#16 else r <<< 1)^[8] (c ^^^ (d.setWidth 16 <<< 8))

/-- R44 whole: the split by the table, and the table V-TAB as the spec lists it. -/
def Obligations.Step8SplitsByTable : Prop :=
  (∀ c d, step8 c d = joinBytes (lowByte c) 0x00 ^^^ tableT (highByte c ^^^ d)) ∧
  vTab.length = 256 ∧ (∀ x : Byte, vTab[x.toNat]? = some (tableT x))

/-- R45 whole: the next-state equations, bit by bit. -/
def Obligations.Step8IsByteParallel : Prop :=
  ∀ (c : Word) (d : Byte), ∀ k < 16, (parallelBits c (highByte c ^^^ d))[k]? = some ((step8 c d).getLsbD k)

/-- Linearity, as R51 derives it. -/
def Obligations.Step8IsLinear : Prop :=
  (∀ c₁ c₂ d₁ d₂, step8 (c₁ ^^^ c₂) (d₁ ^^^ d₂) = step8 c₁ d₁ ^^^ step8 c₂ d₂) ∧ step8 0x0000 0x00 = 0x0000

/-- R52 whole. -/
def Obligations.Step8IsBijectiveAndTableInjective : Prop :=
  (∀ d, Function.Bijective fun c => step8 c d) ∧ Function.Injective tableT ∧
  (∀ x, tableT x = 0x0000 ↔ x = 0x00) ∧ Function.Injective fun x => lowByte (tableT x)

/-- R24 whole: where each data bit enters, and the round in which it meets the top-bit test. -/
def Obligations.BytesEnterMostSignificantBitFirst : Prop :=
  (∀ (c : Word) (d : Byte), ∀ k < 8, (c ^^^ dataOperand d).getLsbD (k + 8) = (c.getLsbD (k + 8) ^^ d.getLsbD k)) ∧
  (∀ (c : Word) (d : Byte), lowByte (c ^^^ dataOperand d) = lowByte c) ∧
  (∀ k < 8, topBit (crcRounds (7 - k) (dataOperand (1#8 <<< k))) = true ∧
    ∀ j < 7 - k, topBit (crcRounds j (dataOperand (1#8 <<< k))) = false)

/-- R54 whole: the message polynomial times x^16, modulo G. -/
def Obligations.Crc16IsPolynomialRemainder : Prop :=
  ∀ B : List Byte,
    (∑ k ∈ Finset.range 16, if (crc16 B).getLsbD k then (Polynomial.X : Polynomial (ZMod 2)) ^ k else 0) =
      Polynomial.modByMonic
        ((∑ k ∈ Finset.range (8 * B.length),
          if (messageNumber B).testBit k then (Polynomial.X : Polynomial (ZMod 2)) ^ k else 0) * Polynomial.X ^ 16)
        (Polynomial.X ^ 16 + Polynomial.X ^ 15 + Polynomial.X ^ 2 + 1)

/-! ## Messages -/

/-- R50 whole: INIT, INIT_UPDATE or reset, then UPDATEs with NOPs anywhere. -/
def Obligations.RegisterHoldsCrcOfMessage : Prop :=
  ∀ (xs : List Stmt) (s : State), (∀ x ∈ xs, continuesMessage x = true) →
    (∃ t, runStmts (.init :: xs) s = .next t ∧ t.crc = .known (crc16 (messageBytes xs))) ∧
    (∃ t, runStmts (.reset :: xs) s = .next t ∧ t.crc = .known (crc16 (messageBytes xs))) ∧
    (∀ b, ∃ t, runStmts (.initUpdate b :: xs) s = .next t ∧ t.crc = .known (crc16 (b :: messageBytes xs)))

/-- R41 whole: the expansions, and the CRC after START. -/
def Obligations.StartExpandsAndComputesCrc : Prop :=
  (∀ B, feed B = B.map .update) ∧ feed [] = [] ∧ start [] = [.init] ∧
  (∀ b B, start (b :: B) = .initUpdate b :: feed B) ∧
  (∀ B s, ∃ t, runStmts (start B) s = .next t ∧ t.crc = .known (crc16 B))

/-- R53 whole: leading zero bytes, on the function and on the block. -/
def Obligations.LeadingZeroBytesDoNotCount : Prop :=
  (∀ k B, crc16 (List.replicate k 0x00 ++ B) = crc16 B) ∧ (∀ k, crc16 (List.replicate k 0x00) = 0x0000) ∧
  (∀ k B s, ∃ t u, runStmts (start (List.replicate k 0x00 ++ B)) s = .next t ∧ runStmts (start B) s = .next u ∧
    t.crc = u.crc)

/-- R10 whole: what the register holds after INIT and UPDATEs, and that each of the 65536 values is reached. -/
def Obligations.EveryRegisterValueIsReachable : Prop :=
  (∀ B s, ∃ t, runStmts (.init :: feed B) s = .next t ∧ t.crc = .known (crc16 B)) ∧
  (∀ v : Word, ∃ b₀ b₁ : Byte, ∀ s, ∃ t, runStmts (start [b₀, b₁]) s = .next t ∧ t.crc = .known v)

/-- From R85 and R47: a missing start continues the message; a start replaces it. -/
def Obligations.MissingStartContinuesMessage : Prop :=
  ∀ A B s, (∃ t, runStmts (start A ++ feed B) s = .next t ∧ t.crc = .known (crc16 (A ++ B))) ∧
    (∃ t, runStmts (start A ++ start B) s = .next t ∧ t.crc = .known (crc16 B))

/-- From R69: a sequence started inside another replaces its register value. -/
def Obligations.InterleavedStartReplacesOuterMessage : Prop :=
  ∀ A B C s, ∃ t, runStmts (start A ++ start B ++ feed C) s = .next t ∧ t.crc = .known (crc16 (B ++ C))

/-- From R30: presentation order, as the queue of the host's actions, and that the order of bytes matters. The queue is the
model's choice, log 1; that a loss of power leaves it as it is, log 10. -/
def Obligations.ActionsTakeEffectInPresentedOrder : Prop :=
  (∀ (as rest : List HostAction) (s t : State), runActions as { s with pending := rest } = .next t →
    runSteps as.length { s with pending := as ++ rest } = .next t) ∧
  (∀ (as rest : List HostAction) (s : State) (f : Fault), runActions as { s with pending := rest } = .fault f →
    runSteps as.length { s with pending := as ++ rest } = .fault f) ∧
  crc16 [0x01, 0x00] = 0x8603 ∧ crc16 [0x00, 0x01] = 0x8005

/-- R58 whole: the register after a command sequence depends on the register and the sequence alone, and no draw or edge
number enters where the host drives its pins. -/
def Obligations.DrivenRunsAreDeterministic : Prop :=
  (∀ (xs : List Stmt) (s t : State) (c : Word), s.crc = .known c → t.crc = .known c →
    ∃ s' t', runStmts xs s = .next s' ∧ runStmts xs t = .next t' ∧ s'.crc = t'.crc) ∧
  (∀ (p : Pins) (rest : List HostAction) (s : State) (k : Nat), allDriven p = true → s.pending = .edge p :: rest →
    ∃ u, step s = .next u ∧ step { s with edges := k } = .next { u with edges := k + 1 })

/-! ## The step and the decoder -/

/-- R33 whole: a step runs the decoded command; the edge is counted and the action taken from the host's list, and no more. -/
def Obligations.StepRunsDecodedCommand : Prop :=
  ∀ (w : CmdWord) (rest : List HostAction) (s : State), s.pending = .edge (Pins.driven false w) :: rest →
    step s = exec (decode w) { s with pending := rest, edges := s.edges + 1 }

/-- R56 whole: `blockStep` line by line, the machine's edge equal to it, `read`. -/
def Obligations.EdgePerformsBlockStep : Prop :=
  (∀ c w, blockStep c true w = .known 0x0000) ∧
  (∀ c w, decode w = .nop → blockStep c false w = c) ∧
  (∀ c w d, decode w = .update d → blockStep (.known c) false w = .known (step8 c d) ∧
    blockStep .unknown false w = .unknown) ∧
  (∀ c w, decode w = .init → blockStep c false w = .known 0x0000) ∧
  (∀ c w d, decode w = .initUpdate d → blockStep c false w = .known (step8 0x0000 d)) ∧
  (∀ (s : State) (p : Pins) (rest : List HostAction), s.pending = .edge p :: rest →
    step s = .next { s with
      crc := blockStep s.crc (sampledRst s.edges p) (sampledCmd s.edges p), pending := rest, edges := s.edges + 1 }) ∧
  (∀ c, readRegister (.known c) = .ok c) ∧ readRegister .unknown = .error .unresetRead

/-- R36 whole: exactly one row matches every word, and it is the decoded command's. -/
def Obligations.OneOpcodeRowMatchesEachWord : Prop :=
  ∀ w : CmdWord, opcodeRow (decode w) ∈ opcodeMap ∧ ∀ r ∈ opcodeMap, rowMatches r w = true ↔ r = opcodeRow (decode w)

/-- R37 whole: `D` is ignored in NOP and INIT; the canonical words. -/
def Obligations.DataIgnoredInNopAndInit : Prop :=
  (∀ d : Byte, decode (cmdWord false false d) = .nop ∧ decode (cmdWord true false d) = .init) ∧
  (∀ (d : Byte) (s : State), exec (decode (cmdWord false false d)) s = exec (decode (cmdWord false false 0x00)) s ∧
    exec (decode (cmdWord true false d)) s = exec (decode (cmdWord true false 0x00)) s) ∧
  encode .nop = 0x000 ∧ encode .init = 0x200

/-- Words written out from the table of R36 and the format of R34. -/
def Obligations.WrittenOutWordsDecode : Prop :=
  decode 0b0010100101 = .nop ∧ decode 0b0101010110 = .update 0x56 ∧ decode 0b1011111111 = .init ∧
  decode 0b1100110001 = .initUpdate 0x31 ∧ decodeTableWord 16 0x339 = some (.initUpdate 0x39) ∧
  decodeTableWord 16 0x400 = none

/-- R42 whole: the decoder's four arms, and decode and encode agree: for every well-formed command, through the table's
numbering and through the fetch of a step too; and encode of decode gives the word back exactly where the ignored `D` is
0x00. -/
def Obligations.DecodeEncodeAgree : Prop :=
  (∀ w : CmdWord, decode w = match w.getLsbD 9, w.getLsbD 8 with
    | false, false => .nop
    | false, true => .update (w.extractLsb' 0 8)
    | true, false => .init
    | true, true => .initUpdate (w.extractLsb' 0 8)) ∧
  (∀ i, WellFormed.command i = true → decode (encode i) = i ∧
    decodeTableWord 16 (encode i).toNat = some i ∧
    ∀ s : State, step (s.withFetchWord 16 (encode i).toNat) = exec i { s with edges := s.edges + 1 }) ∧
  (∀ w : CmdWord, encode (decode w) = w ↔ (fieldV w = false → fieldD w = 0x00))

/-- From R38 and R40: every statement's text assembles to it; the word of each of the four command statements is its
command's canonical word and decodes to that command; RESET alone drives `rst`; an operand over one byte is an error. The text's form (two upper-case hexadecimal digits, one space) is the model's choice, log 5. -/
def Obligations.AssemblerReadsStatementText : Prop :=
  (∀ x, assembleLine (stmtText x) = .ok [x]) ∧
  (stmtWord .nop = encode .nop ∧ decode (stmtWord .nop) = .nop) ∧
  (∀ d, stmtWord (.update d) = encode (.update d) ∧ decode (stmtWord (.update d)) = .update d) ∧
  (stmtWord .init = encode .init ∧ decode (stmtWord .init) = .init) ∧
  (∀ d, stmtWord (.initUpdate d) = encode (.initUpdate d) ∧ decode (stmtWord (.initUpdate d)) = .initUpdate d) ∧
  (∀ x, stmtRst x = true ↔ x = .reset) ∧ stmtWord .reset = 0x000 ∧
  (∀ cs n, numberValue cs = some n → 255 < n → operandByte cs = .error .badOperand)

/-! ## Reset, power, boot -/

/-- R20 whole: the three columns of its table, and a message straight after reset. -/
def Obligations.ResetAndPowerUpValues : Prop :=
  (State.powerUp.crc = .unknown ∧ ∀ o, readPort o State.powerUp.crc = .error .unresetRead) ∧
  (State.reset.crc = .known 0x0000 ∧ ZeroOutputs State.reset.crc) ∧
  (∀ (s : State) (p : Pins) (rest : List HostAction), s.pending = .edge p :: rest → p.rst = some true →
    ∃ t, step s = .next t ∧ t.crc = .known 0x0000 ∧ ZeroOutputs t.crc) ∧
  (∀ s, ∃ t, exec .init s = .next t ∧ t.crc = .known 0x0000 ∧ ZeroOutputs t.crc) ∧
  (∀ B s, ∃ t, runStmts (.reset :: feed B) s = .next t ∧ t.crc = .known (crc16 B))

/-- R81 whole: reset from any state, whatever the other pins, at every edge with `rst` = 1. -/
def Obligations.ResetClearsRegisterAtEveryEdge : Prop :=
  (∀ (s : State) (p : Pins) (rest : List HostAction), s.pending = .edge p :: rest → p.rst = some true →
    step s = .next { s with crc := .known 0x0000, pending := rest, edges := s.edges + 1 }) ∧
  (∀ (ps : List Pins) (s : State), ps ≠ [] → (∀ p ∈ ps, p.rst = some true) →
    ∃ t, runActions (ps.map .edge) s = .next t ∧ t.crc = .known 0x0000)

/-- R82 whole: reset and INIT have the same effect on `crc`, but `rst` overrides the word; INIT alone serves from any
state. -/
def Obligations.ResetAndInitDifferOnlyInPriority : Prop :=
  (∀ c w, blockStep c true w = blockStep c false (encode .init)) ∧
  (∀ c w₁ w₂, blockStep c true w₁ = blockStep c true w₂) ∧
  (∀ s, ∃ t u, runStmts [.reset] s = .next t ∧ runStmts [.init] s = .next u ∧ t = u)

/-- R83 whole: the first edge with `rst` = 0 after reset performs its word. -/
def Obligations.ReleaseFromResetTakesNoCycles : Prop :=
  (∀ (p : Pins) (w : CmdWord) (s : State), p.rst = some true →
    ∃ t, runActions [.edge p, .edge (Pins.driven false w)] s = .next t ∧ t.crc = blockStep (.known 0x0000) false w) ∧
  (∀ d s, ∃ t, runStmts [.reset, .update d] s = .next t ∧ t.crc = .known (step8 0x0000 d))

/-- R74 whole: reset first, then INIT_UPDATE with the init first, then the single command the word selects. -/
def Obligations.SimultaneousEventsFollowPriority : Prop :=
  (∀ c (i v : Bool) d, blockStep c true (cmdWord i v d) = .known 0x0000) ∧
  (∀ c d, blockStep c false (cmdWord true true d) =
    blockStep (blockStep c false (cmdWord true false d)) false (cmdWord false true d)) ∧
  (∀ c d, blockStep c false (cmdWord false false d) = c ∧ blockStep c false (cmdWord true false d) = .known 0x0000 ∧
    blockStep c false (cmdWord false true d) = c.addByte d)

/-- R80 whole: the state is held while the clock is stopped, outputs too; a loss of power gives `unknown`. What a loss of
power leaves of the host's side is the next statement's. -/
def Obligations.PowerStatesKeepOrLoseRegister : Prop :=
  (∀ (s : State) (rest : List HostAction), s.pending = .clockStopped :: rest →
    ∃ t, step s = .next t ∧ t = { s with pending := rest } ∧ ∀ o, readPort o t.crc = readPort o s.crc) ∧
  (∀ n s, runActions (List.replicate n .clockStopped) s = .next s) ∧
  (∀ (s : State) (rest : List HostAction), s.pending = .powerLoss :: rest →
    ∃ t, step s = .next t ∧ t.crc = .unknown)

/-- From R80 and log 10: a loss of power takes the register's value and nothing else. R80 says that the state becomes
`unknown`; that the host's side (its further actions, the edge count, its record of reads) is left as it is, is the
model's choice, log 10. -/
def Obligations.PowerLossLeavesHostSide : Prop :=
  ∀ (s : State) (rest : List HostAction), s.pending = .powerLoss :: rest →
    step s = .next { s with crc := .unknown, pending := rest }

/-- R84 whole: a block started by RESET, INIT or INIT_UPDATE never faults while it keeps its power; one that has seen only
NOP and UPDATE since power-up faults at its first read. -/
def Obligations.BootStatementMakesReadsSafe : Prop :=
  (∀ (x : Stmt) (as : List HostAction), bootsBlock x = true → HostAction.powerLoss ∉ as →
    ∃ t, runActions (stmtAction x :: as) State.powerUp = .next t) ∧
  (∀ (xs : List Stmt) (o : OutPort) (as : List HostAction), (∀ x ∈ xs, continuesMessage x = true) →
    runActions (xs.map stmtAction ++ .read o :: as) State.powerUp = .fault .unresetRead)

/-! ## Outputs -/

/-- R12 whole: `unknown` from power-up; what leaves it and what does not; each read faults there. -/
def Obligations.UnknownUntilFirstResetOrStart : Prop :=
  State.powerUp.crc = .unknown ∧
  (∀ (s : State) (o : OutPort) (rest : List HostAction), s.crc = .unknown → s.pending = .read o :: rest →
    step s = .fault .unresetRead) ∧
  (∀ s, s.crc = .unknown → exec .nop s = .next s ∧ ∀ d, exec (.update d) s = .next s) ∧
  (∀ s d, ∃ t u v, exec .init s = .next t ∧ exec (.initUpdate d) s = .next u ∧ runStmts [.reset] s = .next v ∧
    t.crc ≠ .unknown ∧ u.crc ≠ .unknown ∧ v.crc ≠ .unknown)

/-- R55 whole: a read shows the register after the most recent edge, advances nothing but the host's own record, and
`crc_out` after a message's last command is `compute_crc16`. -/
def Obligations.ReadsShowRegisterAndAdvanceNothing : Prop :=
  (∀ (s : State) (c : Word) (rest : List HostAction), s.crc = .known c →
    step { s with pending := .read .crcOut :: rest } =
      .next { s with pending := rest, reads := s.reads ++ [.crcOut c] } ∧
    step { s with pending := .read .crcHi :: rest } =
      .next { s with pending := rest, reads := s.reads ++ [.crcHi (c.extractLsb' 8 8)] } ∧
    step { s with pending := .read .crcLo :: rest } =
      .next { s with pending := rest, reads := s.reads ++ [.crcLo (c.extractLsb' 0 8)] } ∧
    step { s with pending := .read .residueZero :: rest } =
      .next { s with pending := rest, reads := s.reads ++ [.residueZero (decide (c = 0x0000))] }) ∧
  (∀ B s, ∃ t, runStmts (start B) s = .next t ∧ readCrcOut t.crc = .ok (crc16 B))

/-- R29 whole: one edge applies a command whole; reads have no effect and repeat; NOP has none, whatever `data` holds. -/
def Obligations.ReadsRepeatAndNopHasNoEffect : Prop :=
  (∀ (w : CmdWord) (s : State), ∃ t, runActions [.edge (Pins.driven false w)] s = .next t ∧
    t.crc = blockStep s.crc false w) ∧
  (∀ (o : OutPort) (n : Nat) (s : State) (v : Sample), readPort o s.crc = .ok v →
    runActions (List.replicate n (.read o)) s = .next { s with reads := s.reads ++ List.replicate n v }) ∧
  (∀ (d : Byte) (s : State), runActions [.edge (Pins.driven false (cmdWord false false d))] s =
    .next { s with edges := s.edges + 1 })

/-- R14 whole: the flag is a function of `crc`, 1 after reset and INIT, 1 after a frame and its CRC bytes exactly when
they match, and a fault while `unknown`. -/
def Obligations.ResidueZeroFollowsRegister : Prop :=
  (∀ c : Word, readResidueZero (.known c) = .ok (decide (c = 0x0000))) ∧
  readResidueZero .unknown = .error .unresetRead ∧
  (∀ s, ∃ t u, runStmts [.reset] s = .next t ∧ runStmts [.init] s = .next u ∧
    readResidueZero t.crc = .ok true ∧ readResidueZero u.crc = .ok true) ∧
  (∀ (P : Payload) (hi lo : Byte) (s : State), ∃ t, runStmts (start (payloadBytes P ++ [hi, lo])) s = .next t ∧
    readResidueZero t.crc = .ok (decide (joinBytes hi lo = crc16 (payloadBytes P))))

/-- R86 whole: a command presented in a cycle takes effect at the edge that ends it; between edges k and k+1 the outputs
show the register after edges 1..k, so a message's CRC not before the edge of its last byte. -/
def Obligations.OutputsShowRegisterAfterLastEdge : Prop :=
  (∀ (xs ys : List Stmt) (s t u : State) (c : Word), runStmts xs s = .next t → t.crc = .known c →
    runStmts ys { t with reads := t.reads ++ [.crcOut c] } = .next u →
    runActions (xs.map stmtAction ++ .read .crcOut :: ys.map stmtAction) s = .next u) ∧
  (∀ (B : List Byte) (b : Byte) (s : State), ∃ t,
    runActions ((Stmt.init :: feed B).map stmtAction ++ [.read .crcOut, stmtAction (.update b), .read .crcOut]) s = .next t ∧
    t.reads = s.reads ++ [.crcOut (crc16 B), .crcOut (crc16 (B ++ [b]))])

/-- R87 whole: two messages with no idle edge between them, the one-cycle window, and NOPs that keep it open. -/
def Obligations.BackToBackMessagesNeedNoIdleEdge : Prop :=
  (∀ (A B : List Byte) (s : State), ∃ t,
    runActions ((start A).map stmtAction ++ .read .crcOut :: (start B).map stmtAction ++ [.read .crcOut]) s = .next t ∧
    t.reads = s.reads ++ [.crcOut (crc16 A), .crcOut (crc16 B)] ∧
    t.edges = s.edges + (start A).length + (start B).length) ∧
  (∀ (A : List Byte) (b : Byte) (s : State), ∃ t, runStmts (start A ++ [.initUpdate b]) s = .next t ∧
    t.crc = .known (crc16 [b])) ∧
  (∀ (A : List Byte) (n : Nat) (s : State), ∃ t, runStmts (start A ++ List.replicate n .nop) s = .next t ∧
    readCrcOut t.crc = .ok (crc16 A))

/-- From R77: an undriven pin takes some level, a driven one its own, and the block performs its step on what it samples;
so too where the host presents nothing (log 1). Which level is drawn is free (log 2). -/
def Obligations.UndrivenPinsTakeSomeLevel : Prop :=
  (∀ (s : State) (p : Pins) (rest : List HostAction), s.pending = .edge p :: rest →
    ∃ (r i v : Bool) (d : Byte), (∀ b, p.rst = some b → r = b) ∧ (∀ b, p.init = some b → i = b) ∧
      (∀ b, p.valid = some b → v = b) ∧ (∀ b, p.data = some b → d = b) ∧
      step s = .next { s with crc := blockStep s.crc r (cmdWord i v d), pending := rest, edges := s.edges + 1 }) ∧
  (∀ (s : State), s.pending = [] → ∃ (r : Bool) (w : CmdWord),
    step s = .next { s with crc := blockStep s.crc r w, edges := s.edges + 1 })

/-! ## Faults and invariants -/

/-- R76 whole: the one fault and its one cause, no refusal, and a fault kept once recorded. -/
def Obligations.OnlyUnresetReadFaultsAndIsKept : Prop :=
  (∀ s f, step s = .fault f → f = .unresetRead ∧ s.crc = .unknown ∧ ∃ o rest, s.pending = .read o :: rest) ∧
  (∀ s r, step s ≠ .refused r) ∧
  (∀ (s : State) (j k : Nat) (f : Fault), runSteps j s = .fault f → j ≤ k →
    runSteps k s = .fault f)

/-- From R12 and R84: a booted block stays booted at every step, and no step of it stops. -/
def Obligations.BootedIsKeptByEveryStep : Prop :=
  (∀ s t, Booted s → step s = .next t → Booted t) ∧ (∀ s, Booted s → ∃ t, step s = .next t)

/-- From R20 and R84: the block right after reset is booted. The empty list of pending actions is the model's choice,
log 1. -/
def Obligations.ResetStateIsBooted : Prop := Booted State.reset

/-- From R50, R80 and R81: the register always holds the CRC of the message since the last start, or nothing where there
was none; every step keeps this, undriven inputs included. -/
def Obligations.RegisterTracksMessageAtEveryStep : Prop :=
  ∀ (m : Option (List Byte)) (s t : State), s.crc = crcOfMessage m → step s = .next t →
    t.crc = crcOfMessage (messageAfter s.edges (takeAction s).1 m)

/-- From R12 and R20: the message tracked at reset is empty, and there is none at power-up. -/
def Obligations.TrackedMessageAtResetAndPowerUp : Prop :=
  State.reset.crc = crcOfMessage (some []) ∧ State.powerUp.crc = crcOfMessage none

/-! ## Frame and config sequences -/

/-- R60 whole: ten edges, and the frame ends with the payload's CRC, high byte first. -/
def Obligations.GenFrameCrcAppendsBigEndianCrc : Prop :=
  ∀ (P : Payload) (s : State),
    start (payloadBytes P) = .initUpdate P.channelOrZero :: (payloadBytes P).tail.map .update ∧
    (start (payloadBytes P)).length = 10 ∧
    ∃ t, genFrameCrc P s =
        .next (t, payloadBytes P ++ [highByte (crc16 (payloadBytes P)), lowByte (crc16 (payloadBytes P))]) ∧
      runStmts (start (payloadBytes P)) s = .next t

/-- R62 whole: the length check first, with no command sent; else the comparison of the payload's CRC with bytes 10 and
11, big-endian. -/
def Obligations.CheckFrameComparesTrailingCrc : Prop :=
  ∀ (R : List Byte) (s : State),
    (R.length < 12 → checkFrame R s = .next (s, .badLength)) ∧
    (∀ (h : 12 ≤ R.length), ∃ t, runStmts (start (R.take 10)) s = .next t ∧ (start (R.take 10)).length = 10 ∧
      checkFrame R s = .next (t, if crc16 (R.take 10) = joinBytes R[10] R[11] then .ok else .badCrc))

/-- R63 whole: the residue form, the residue law, and that both forms give the same result for every buffer. -/
def Obligations.ResidueCheckEqualsComparison : Prop :=
  (∀ (R : List Byte) (s : State), R.length < 12 → checkFrameResidue R s = .next (s, .badLength)) ∧
  (∀ (R : List Byte) (s : State), 12 ≤ R.length → ∃ t, runStmts (start (R.take 12)) s = .next t ∧
    (start (R.take 12)).length = 12 ∧
    checkFrameResidue R s = .next (t, if readResidueZero t.crc = .ok true then .ok else .badCrc)) ∧
  (∀ (P : List Byte) (t : Word), P.length = 10 → (crc16 (P ++ [highByte t, lowByte t]) = 0x0000 ↔ crc16 P = t)) ∧
  (∀ (R : List Byte) (s : State), ∃ t u r, checkFrame R s = .next (t, r) ∧ checkFrameResidue R s = .next (u, r))

/-- R64 whole: bytes after offset 11 take no part, in either form. -/
def Obligations.BytesAfterOffsetElevenAreIgnored : Prop :=
  ∀ (R tail : List Byte) (s : State), R.length = 12 →
    checkFrame (R ++ tail) s = checkFrame R s ∧ checkFrameResidue (R ++ tail) s = checkFrameResidue R s

/-- R57 whole: one or two flipped bits of a frame of 96 bits whose CRC matches give a nonzero residue, and the check of R63
rejects it. -/
def Obligations.OneAndTwoBitErrorsAreDetected : Prop :=
  ∀ (R : List Byte), R.length = 12 → crc16 R = 0x0000 → ∀ i < 96,
    (crc16 (flipBit R i) ≠ 0x0000 ∧ ∀ s, ∃ t, checkFrameResidue (flipBit R i) s = .next (t, .badCrc)) ∧
    ∀ j < 96, j ≠ i → crc16 (flipBit (flipBit R i) j) ≠ 0x0000 ∧
      ∀ s, ∃ t, checkFrameResidue (flipBit (flipBit R i) j) s = .next (t, .badCrc)

/-- R65 whole: the built frame checks out, and no frame one or two bits away from it does. -/
def Obligations.BuiltFrameRoundTrips : Prop :=
  ∀ (P : Payload) (s : State), ∃ t F, genFrameCrc P s = .next (t, F) ∧
    (∃ u, checkFrame F t = .next (u, .ok)) ∧
    (∀ i < 96, ∃ u, checkFrame (flipBit F i) t = .next (u, .badCrc)) ∧
    (∀ i < 96, ∀ j < 96, i ≠ j → ∃ u, checkFrame (flipBit (flipBit F i) j) t = .next (u, .badCrc))

/-- From R67 and R26: the config block is the covered bytes and their CRC in the order of the open parameter. -/
def Obligations.GenConfigCrcAppendsCrcInOrder : Prop :=
  ∀ (p : Config.Params) (S : ConfigImage p) (s : State), ∃ t,
    runStmts (start S.bytes) s = .next t ∧ t.crc = .known (crc16 S.bytes) ∧
    genConfigCrc p S s = .next (t, S.bytes ++ (match p.cfgCrcOrder with
      | .bigEndian => [highByte (crc16 S.bytes), lowByte (crc16 S.bytes)]
      | .littleEndian => [lowByte (crc16 S.bytes), highByte (crc16 S.bytes)])) ∧
    (p.cfgLen = 0 → start S.bytes = [.init])

/-- From R68 and R26: the comparison form, the residue form equal to it under BigEndian, and a block on which they differ
under LittleEndian. -/
def Obligations.CheckConfigComparesStoredCrc : Prop :=
  (∀ (p : Config.Params) (K : ConfigBlock p) (s : State) (k₀ k₁ : Byte), K.bytes[p.cfgLen]? = some k₀ →
    K.bytes[p.cfgLen + 1]? = some k₁ → ∃ t, checkConfig p K s =
      .next (t, if crc16 (K.bytes.take p.cfgLen) = (match p.cfgCrcOrder with
        | .bigEndian => joinBytes k₀ k₁
        | .littleEndian => joinBytes k₁ k₀) then .ok else .configCrcMismatch)) ∧
  (∀ (p : Config.Params) (K : ConfigBlock p) (s : State), p.cfgCrcOrder = .bigEndian →
    ∃ t u r, checkConfig p K s = .next (t, r) ∧ checkConfigResidue p K s = .next (u, r)) ∧
  (∃ (p : Config.Params) (K : ConfigBlock p), p.cfgCrcOrder = .littleEndian ∧ ∀ s, ∃ t u,
    checkConfig p K s = .next (t, .ok) ∧ checkConfigResidue p K s = .next (u, .configCrcMismatch))

/-- From R67 and R68: the block that is saved loads again, for every length and byte order. -/
def Obligations.SavedConfigLoads : Prop :=
  ∀ (p : Config.Params) (S : ConfigImage p) (s : State), ∃ t block, genConfigCrc p S s = .next (t, block) ∧
    ∃ h : block.length = p.cfgLen + 2, ∀ s', ∃ u, checkConfig p ⟨block, h⟩ s' = .next (u, .ok)

/-- From the table of R89: edges taken by each sequence. -/
def Obligations.SequencesTakeStatedEdgeCounts : Prop :=
  (∀ P s, ∃ t F, genFrameCrc P s = .next (t, F) ∧ t.edges = s.edges + 10) ∧
  (∀ (R : List Byte) s, 12 ≤ R.length → ∃ t r, checkFrame R s = .next (t, r) ∧ t.edges = s.edges + 10) ∧
  (∀ (R : List Byte) s, 12 ≤ R.length → ∃ t r, checkFrameResidue R s = .next (t, r) ∧ t.edges = s.edges + 12) ∧
  (∀ p S s, ∃ t K, genConfigCrc p S s = .next (t, K) ∧ t.edges = s.edges + max p.cfgLen 1) ∧
  (∀ p K s, ∃ t r, checkConfig p K s = .next (t, r) ∧ t.edges = s.edges + max p.cfgLen 1)

/-- From V-CHK-1 of 95_test_vectors.md: the check value, from a block that was never reset. -/
def Obligations.CheckValueFromUnresetBlock : Prop :=
  ∃ t, runStmts (start [0x31, 0x32, 0x33, 0x34, 0x35, 0x36, 0x37, 0x38, 0x39] ++ [.nop]) State.powerUp = .next t ∧
    t.crc = .known 0xFEE8
end

