-- ==== Sys2Proof/Laws/Crc.lean ====
section
/-! SUPPORT. The update function round by round: rounds are linear over XOR (R51), and eight of them move a low byte
up unchanged (R44); the CRC of a longer message; the two bytes of a word. -/

namespace Sys2Proof.Machine

theorem topBit_xor (a b : Word) : topBit (a ^^^ b) = (topBit a ^^ topBit b) := by simp [topBit]

theorem crcRound_xor (a b : Word) : crcRound (a ^^^ b) = crcRound a ^^^ crcRound b := by
  have hs : (a ^^^ b) <<< 1 = a <<< 1 ^^^ b <<< 1 := BitVec.shiftLeft_xor_distrib a b 1
  have hp : poly ^^^ poly = 0#16 := BitVec.xor_self
  unfold crcRound
  rw [topBit_xor, hs]
  cases topBit a <;> cases topBit b <;>
    simp only [Bool.xor_false, Bool.xor_true, Bool.not_true, Bool.not_false, if_true, if_false, Bool.false_eq_true]
  · ac_rfl
  · ac_rfl
  · rw [show (a <<< 1 ^^^ poly) ^^^ (b <<< 1 ^^^ poly) = (a <<< 1 ^^^ b <<< 1) ^^^ (poly ^^^ poly) by ac_rfl, hp,
      BitVec.xor_zero]

theorem crcRounds_xor (n : Nat) (a b : Word) : crcRounds n (a ^^^ b) = crcRounds n a ^^^ crcRounds n b := by
  induction n generalizing a b with
  | zero => rfl
  | succ n ih => simp only [crcRounds, crcRound_xor, ih]

theorem dataOperand_xor (a b : Byte) : dataOperand (a ^^^ b) = dataOperand a ^^^ dataOperand b := by
  simp only [dataOperand, BitVec.setWidth_xor, BitVec.shiftLeft_xor_distrib]

/-- Eight rounds move a low byte up by 8 unchanged. -/
theorem crcRounds_lowByte (x : Byte) : crcRounds 8 (x.setWidth 16) = dataOperand x := by
  revert x; decide

/-- A word is its two bytes. -/
theorem word_split (c : Word) : c = dataOperand (highByte c) ^^^ (lowByte c).setWidth 16 := by
  apply BitVec.eq_of_getLsbD_eq
  intro k hk
  simp only [dataOperand, highByte, lowByte, BitVec.getLsbD_xor, BitVec.getLsbD_shiftLeft, BitVec.getLsbD_setWidth,
    BitVec.getLsbD_extractLsb']
  rcases Nat.lt_or_ge k 8 with h | h
  · simp [h, hk]
  · have h1 : k - 8 < 8 := by omega
    have h2 : ¬ k < 8 := by omega
    have h3 : 8 + (k - 8) = k := by omega
    have h4 : k - 8 < 16 := by omega
    simp [h1, h2, h3, hk, h4]

@[simp] theorem highByte_joinBytes (a b : Byte) : highByte (joinBytes a b) = a := by
  apply BitVec.eq_of_getLsbD_eq
  intro k hk
  have h2 : ¬ 8 + k < 8 := by omega
  simp only [highByte, joinBytes, BitVec.getLsbD_extractLsb', BitVec.getLsbD_append]
  simp [h2, hk]

@[simp] theorem lowByte_joinBytes (a b : Byte) : lowByte (joinBytes a b) = b := by
  apply BitVec.eq_of_getLsbD_eq
  intro k hk
  simp only [lowByte, joinBytes, BitVec.getLsbD_extractLsb', BitVec.getLsbD_append]
  simp [hk]

@[simp] theorem joinBytes_bytes (c : Word) : joinBytes (highByte c) (lowByte c) = c := by
  apply BitVec.eq_of_getLsbD_eq
  intro k hk
  simp only [highByte, lowByte, joinBytes, BitVec.getLsbD_append, BitVec.getLsbD_extractLsb']
  rcases Nat.lt_or_ge k 8 with h | h
  · simp [h]
  · have h1 : k - 8 < 8 := by omega
    have h2 : ¬ k < 8 := by omega
    have h3 : 8 + (k - 8) = k := by omega
    simp [h1, h2, h3]

@[simp] theorem crc16_nil : crc16 [] = 0x0000 := rfl

/-- The CRC of a message goes on where the message before it ended (R43, R85). -/
theorem crc16_append (A B : List Byte) : crc16 (A ++ B) = B.foldl step8 (crc16 A) := by
  simp [crc16, List.foldl_append]

theorem crc16_snoc (B : List Byte) (b : Byte) : crc16 (B ++ [b]) = step8 (crc16 B) b := by
  simp [crc16_append]

/-- What a read of the register answers (R12, R56). -/
theorem readRegister_eq (c : CrcState) :
    readRegister c = (match c with | .known v => .ok v | .unknown => .error .unresetRead) := by
  cases c <;> rfl

/-- A read of a port answers a sample of the register's value, or the one fault from `unknown` (R12, R13, R14). -/
theorem readPort_cases (o : OutPort) (c : CrcState) :
    (∃ v, c = .known v ∧ readPort o c = .ok
      (match o with
        | .crcOut => .crcOut v
        | .crcHi => .crcHi (highByte v)
        | .crcLo => .crcLo (lowByte v)
        | .residueZero => .residueZero (residueZero v))) ∨
    (c = .unknown ∧ readPort o c = .error .unresetRead) := by
  cases c with
  | unknown => exact .inr ⟨rfl, by cases o <;> rfl⟩
  | known v => exact .inl ⟨v, rfl, by cases o <;> rfl⟩

end Sys2Proof.Machine
end

