-- ==== Sys2Proof/Laws/Decode.lean ====
section
/-! SUPPORT. The fields of an assembled command word, and the decoder on one. -/

namespace Sys2Proof

@[simp] theorem fieldI_cmdWord (i v : Bool) (d : Byte) : fieldI (cmdWord i v d) = i := by
  revert d; cases i <;> cases v <;> decide

@[simp] theorem fieldV_cmdWord (i v : Bool) (d : Byte) : fieldV (cmdWord i v d) = v := by
  revert d; cases i <;> cases v <;> decide

@[simp] theorem fieldD_cmdWord (i v : Bool) (d : Byte) : fieldD (cmdWord i v d) = d := by
  revert d; cases i <;> cases v <;> decide

/-- A command word is its three fields (R33, R34). -/
@[simp] theorem cmdWord_fields (w : CmdWord) : cmdWord (fieldI w) (fieldV w) (fieldD w) = w := by
  apply BitVec.eq_of_getLsbD_eq
  intro k hk
  simp only [cmdWord, fieldI, fieldV, fieldD, BitVec.getLsbD_append, BitVec.getLsbD_setWidth, BitVec.getLsbD_ofBool]
  rcases Nat.lt_or_ge k 8 with h | h
  · simp [h]
  · obtain rfl | rfl : k = 8 ∨ k = 9 := by omega
    all_goals simp

/-- What the decoder answers on an assembled word (R42). -/
theorem decode_cmdWord (i v : Bool) (d : Byte) :
    decode (cmdWord i v d) =
      match i, v with
      | false, false => .nop
      | false, true => .update d
      | true, false => .init
      | true, true => .initUpdate d := by
  cases i <;> cases v <;> simp [decode]

end Sys2Proof
end

