-- ==== Sys2Proof/Laws/PerInstr.lean ====
section
/-! SUPPORT. Per command: its canonical word stands in its own row of the opcode map and in no other (R36, R37). -/

namespace Sys2Proof.Laws.RowOf

/-- The command's canonical word matches its own row, and any row it matches is that one. -/
def Statement (i : Instr) : Prop :=
  opcodeRow i ∈ opcodeMap ∧ rowMatches (opcodeRow i) (encode i) = true ∧
    ∀ r ∈ opcodeMap, rowMatches r (encode i) = true → r = opcodeRow i

theorem nop : Statement .nop := by unfold Statement; decide

theorem update (d : Byte) : Statement (.update d) := by
  unfold Statement
  revert d
  decide

theorem init : Statement .init := by unfold Statement; decide

theorem initUpdate (d : Byte) : Statement (.initUpdate d) := by
  unfold Statement
  revert d
  decide

end Sys2Proof.Laws.RowOf
end

