-- ==== Sys2Proof/Laws/State.lean ====
section
/-! SUPPORT. One lemma per field per update of the state. -/

namespace Sys2Proof.Machine

variable (s : State) (c : CrcState) (v : Sample)

@[simp] theorem withCrc_crc : (s.withCrc c).crc = c := rfl
@[simp] theorem withCrc_pending : (s.withCrc c).pending = s.pending := rfl
@[simp] theorem withCrc_edges : (s.withCrc c).edges = s.edges := rfl
@[simp] theorem withCrc_reads : (s.withCrc c).reads = s.reads := rfl

@[simp] theorem countEdge_crc : s.countEdge.crc = s.crc := rfl
@[simp] theorem countEdge_pending : s.countEdge.pending = s.pending := rfl
@[simp] theorem countEdge_edges : s.countEdge.edges = s.edges + 1 := rfl
@[simp] theorem countEdge_reads : s.countEdge.reads = s.reads := rfl

@[simp] theorem logRead_crc : (s.logRead v).crc = s.crc := rfl
@[simp] theorem logRead_pending : (s.logRead v).pending = s.pending := rfl
@[simp] theorem logRead_edges : (s.logRead v).edges = s.edges := rfl
@[simp] theorem logRead_reads : (s.logRead v).reads = s.reads ++ [v] := rfl

@[simp] theorem applyReset_crc : (applyReset s).crc = .known 0x0000 := rfl
@[simp] theorem applyReset_pending : (applyReset s).pending = s.pending := rfl
@[simp] theorem applyReset_edges : (applyReset s).edges = s.edges := rfl
@[simp] theorem applyReset_reads : (applyReset s).reads = s.reads := rfl

@[simp] theorem losePower_crc : (losePower s).crc = .unknown := rfl
@[simp] theorem losePower_pending : (losePower s).pending = s.pending := rfl
@[simp] theorem losePower_edges : (losePower s).edges = s.edges := rfl
@[simp] theorem losePower_reads : (losePower s).reads = s.reads := rfl

@[simp] theorem addByte_known (d : Byte) (w : Word) : CrcState.addByte d (.known w) = .known (step8 w d) := rfl
@[simp] theorem addByte_unknown (d : Byte) : CrcState.addByte d .unknown = .unknown := rfl

end Sys2Proof.Machine
end

