-- ==== Sys2Proof/Laws/Step.lean ====
section
/-! SUPPORT. What a command, an edge, an action of the host and a step can do, each said once. -/

namespace Sys2Proof.Machine

/-- A command always answers a next state, and writes the register only (R46 to R49). -/
theorem exec_eq (i : Instr) (s : State) :
    exec i s = .next (s.withCrc (match i with
      | .nop => s.crc
      | .update d => s.crc.addByte d
      | .init => .known 0x0000
      | .initUpdate d => .known (step8 0x0000 d))) := by
  cases i <;> rfl

/-- The meaning of a decoded word is the block's step of R56 with `rst` = 0. -/
theorem exec_decode (w : CmdWord) (s : State) : exec (decode w) s = .next (s.withCrc (blockStep s.crc false w)) := by
  rw [exec_eq]
  unfold blockStep
  cases decode w with
  | update d => cases h : s.crc <;> simp [CrcState.addByte]
  | _ => rfl

/-- An edge counts itself and puts the block's step of R56 into the register; it never stops. -/
theorem clockEdge_eq (p : Pins) (s : State) :
    clockEdge p s =
      .next (s.countEdge.withCrc (blockStep s.crc (sampledRst s.edges p) (sampledCmd s.edges p))) := by
  unfold clockEdge
  cases h : sampledRst s.edges p with
  | false => simpa using exec_decode _ s.countEdge
  | true => simp [applyReset, blockStep, CrcState.afterReset]

@[simp] theorem sampledRst_driven (k : Nat) (r : Bool) (w : CmdWord) : sampledRst k (Pins.driven r w) = r := rfl

@[simp] theorem sampledCmd_driven (k : Nat) (r : Bool) (w : CmdWord) : sampledCmd k (Pins.driven r w) = w := by
  simp [sampledCmd, Pins.driven]

/-- Everything an action of the host can do. -/
theorem hostAction_cases (a : HostAction) (s : State) :
    (∃ p, a = .edge p ∧ hostAction a s =
      .next (s.countEdge.withCrc (blockStep s.crc (sampledRst s.edges p) (sampledCmd s.edges p)))) ∨
    (∃ o v, a = .read o ∧ readPort o s.crc = .ok v ∧ hostAction a s = .next (s.logRead v)) ∨
    (∃ o, a = .read o ∧ s.crc = .unknown ∧ hostAction a s = .fault .unresetRead) ∨
    (a = .clockStopped ∧ hostAction a s = .next s) ∨
    (a = .powerLoss ∧ hostAction a s = .next (losePower s)) := by
  cases a with
  | edge p => exact .inl ⟨p, rfl, clockEdge_eq p s⟩
  | read o =>
    rcases readPort_cases o s.crc with ⟨v, -, hv⟩ | ⟨hc, hv⟩
    · exact .inr (.inl ⟨o, _, rfl, hv, by simp [hostAction, hv]⟩)
    · exact .inr (.inr (.inl ⟨o, rfl, hc, by simp [hostAction, hv]⟩))
  | clockStopped => exact .inr (.inr (.inr (.inl ⟨rfl, rfl⟩)))
  | powerLoss => exact .inr (.inr (.inr (.inr ⟨rfl, rfl⟩)))

/-- A step with an action waiting performs it. -/
theorem step_cons (s : State) (a : HostAction) (rest : List HostAction) (h : s.pending = a :: rest) :
    step s = hostAction a { s with pending := rest } := by
  simp [step, takeAction, h]

/-- A step with nothing waiting is an edge with undriven inputs (R77). -/
theorem step_nil (s : State) (h : s.pending = []) : step s = clockEdge Pins.undriven s := by
  simp [step, takeAction, h, hostAction]

end Sys2Proof.Machine
end

