-- ==== Sys2Proof/Laws/Sequences.lean ====
section
/-! SUPPORT. What a run of statements does, said once. -/

namespace Sys2Proof.Machine

@[simp] theorem runActions_nil (s : State) : runActions [] s = .next s := rfl

theorem runActions_cons (a : HostAction) (as : List HostAction) (s : State) :
    runActions (a :: as) s = andThen (hostAction a s) (runActions as) := rfl

theorem andThen_assoc {α β γ : Type} (o : Host.Outcome α Fault Refusal) (f : α → Host.Outcome β Fault Refusal)
    (g : β → Host.Outcome γ Fault Refusal) :
    andThen (andThen o f) g = andThen o fun a => andThen (f a) g := by
  cases o <;> rfl

/-- Actions in two stretches, the second from where the first ended (R30). -/
theorem runActions_append (as bs : List HostAction) (s : State) :
    runActions (as ++ bs) s = andThen (runActions as s) (runActions bs) := by
  induction as generalizing s with
  | nil => rfl
  | cons a as ih =>
    simp only [List.cons_append, runActions_cons, andThen_assoc]
    congr 1
    funext t
    exact ih t

/-- The register after a list of statements: the block's step of R56 at each edge. -/
def crcAfterStmts (xs : List Stmt) (c : CrcState) : CrcState :=
  xs.foldl (fun c x => blockStep c (stmtRst x) (stmtWord x)) c

@[simp] theorem crcAfterStmts_nil (c : CrcState) : crcAfterStmts [] c = c := rfl

@[simp] theorem crcAfterStmts_cons (x : Stmt) (xs : List Stmt) (c : CrcState) :
    crcAfterStmts (x :: xs) c = crcAfterStmts xs (blockStep c (stmtRst x) (stmtWord x)) := rfl

theorem crcAfterStmts_append (xs ys : List Stmt) (c : CrcState) :
    crcAfterStmts (xs ++ ys) c = crcAfterStmts ys (crcAfterStmts xs c) := by
  simp [crcAfterStmts, List.foldl_append]

/-- Statements never stop the machine; they write the register and count their edges. -/
theorem runStmts_eq (xs : List Stmt) (s : State) :
    runStmts xs s = .next { s with crc := crcAfterStmts xs s.crc, edges := s.edges + xs.length } := by
  induction xs generalizing s with
  | nil => rfl
  | cons x xs ih =>
    have h : runStmts (x :: xs) s = andThen (clockEdge (Pins.driven (stmtRst x) (stmtWord x)) s) (runStmts xs) := rfl
    rw [h, clockEdge_eq]
    simp only [andThen, sampledRst_driven, sampledCmd_driven, ih]
    simp [State.withCrc, State.countEdge, crcAfterStmts, Nat.add_assoc, Nat.add_comm 1]

@[simp] theorem blockStep_nop (c : CrcState) : blockStep c (stmtRst .nop) (stmtWord .nop) = c := rfl

theorem stmtWord_update (d : Byte) : stmtWord (.update d) = cmdWord false true d := by
  revert d; decide

theorem stmtWord_initUpdate (d : Byte) : stmtWord (.initUpdate d) = cmdWord true true d := by
  revert d; decide

@[simp] theorem blockStep_update (c : CrcState) (d : Byte) :
    blockStep c (stmtRst (.update d)) (stmtWord (.update d)) = c.addByte d := by
  rw [stmtWord_update]
  cases c <;> simp [blockStep, decode_cmdWord, stmtRst]

@[simp] theorem blockStep_init (c : CrcState) : blockStep c (stmtRst .init) (stmtWord .init) = .known 0x0000 := rfl

@[simp] theorem blockStep_initUpdate (c : CrcState) (d : Byte) :
    blockStep c (stmtRst (.initUpdate d)) (stmtWord (.initUpdate d)) = .known (step8 0x0000 d) := by
  rw [stmtWord_initUpdate]
  simp [blockStep, decode_cmdWord, stmtRst]

@[simp] theorem blockStep_reset (c : CrcState) : blockStep c (stmtRst .reset) (stmtWord .reset) = .known 0x0000 := rfl

end Sys2Proof.Machine
end

