-- ==== Sys2Proof/Tests/Slice0.lean ====
section
/-! SUPPORT. Tests: ill-formed terms, words written out bit by bit from the spec's encoding, the spec's vectors
(95_test_vectors.md), one step of each kind, and a witness for the hypotheses of each statement that has some. -/

namespace Sys2Proof.Tests

open Sys2Proof Sys2Proof.Machine

/-- A small state: a register, a list of actions, nothing else. -/
def mk (c : CrcState) (as : List HostAction) : State := { crc := c, pending := as, edges := 0, reads := [] }

/-! ## WellFormed: a term each check refuses -/

theorem test_no_command_is_ill_formed : WellFormed.command .nop = true ∧ WellFormed.command (.update 0xFF) = true ∧
    WellFormed.command .init = true ∧ WellFormed.command (.initUpdate 0x00) = true := by decide

theorem test_eleven_bit_word_is_ill_formed : WellFormed.commandWord 0x3FF = true ∧
    WellFormed.commandWord 0x400 = false := by decide

theorem test_operand_over_a_byte_is_ill_formed : WellFormed.byteOperand 255 = true ∧
    WellFormed.byteOperand 256 = false := by decide

theorem test_nine_byte_payload_is_ill_formed : WellFormed.payload (List.replicate 10 0x00) = true ∧
    WellFormed.payload (List.replicate 9 0x00) = false := by decide

theorem test_eleven_byte_buffer_is_ill_formed : WellFormed.frameBuffer (List.replicate 12 0x00) = true ∧
    WellFormed.frameBuffer (List.replicate 11 0x00) = false := by decide

theorem test_short_config_image_is_ill_formed : WellFormed.configImage ⟨2, .bigEndian⟩ [0x03, 0x00] = true ∧
    WellFormed.configImage ⟨2, .bigEndian⟩ [0x03] = false := by decide

theorem test_long_config_block_is_ill_formed : WellFormed.configBlock ⟨1, .bigEndian⟩ [0x03, 0x00, 0x01] = true ∧
    WellFormed.configBlock ⟨1, .bigEndian⟩ [0x03, 0x00, 0x01, 0x02] = false := by decide

/-! ## Decode: words written out from the format `IVDDDDDDDD` of R34 and the table of R36 -/

theorem test_nop_word : decode 0b0000000000 = .nop := by decide
theorem test_nop_word_any_data : decode 0b0010100101 = .nop := by decide
theorem test_update_word : decode 0b0101010110 = .update 0x56 := by decide
theorem test_update_word_high_data_bit : decode 0b0110000001 = .update 0x81 := by decide
theorem test_init_word : decode 0b1000000000 = .init := by decide
theorem test_init_word_any_data : decode 0b1011111111 = .init := by decide
theorem test_init_update_word : decode 0b1100110001 = .initUpdate 0x31 := by decide
theorem test_init_update_word_all_ones : decode 0b1111111111 = .initUpdate 0xFF := by decide

theorem test_table_words : decodeTableWord 16 0x000 = some .nop ∧ decodeTableWord 16 0x100 = some (.update 0x00) ∧
    decodeTableWord 16 0x200 = some .init ∧ decodeTableWord 16 0x300 = some (.initUpdate 0x00) := by decide

theorem test_number_over_ten_bits_is_refused : decodeTableWord 16 0x400 = none := by decide

/-! ## Vectors -/

/-- V-STEP-1 to V-STEP-18. -/
theorem test_step_vectors :
    ([(0x0000, 0x00), (0x0000, 0x01), (0x0000, 0x80), (0x0000, 0xFF), (0xFFFF, 0xFF), (0xFFFF, 0x00), (0x8000, 0x00),
      (0x8000, 0x80), (0x0001, 0x00), (0x00FF, 0x00), (0xFF00, 0x00), (0xFF00, 0xFF), (0x1234, 0x56), (0x1234, 0x12),
      (0x8005, 0x00), (0xABCD, 0xEF), (0x7FFF, 0x7F), (0x0100, 0x01)] : List (Word × Byte)).map
        (fun x => step8 x.1 x.2) =
      [0x0000, 0x8005, 0x8303, 0x0202, 0xFF00, 0xFD02, 0x8303, 0x0000, 0x0100, 0xFF00, 0x0202, 0x0000, 0x3598, 0x3400,
        0x8603, 0xCC98, 0xFF00, 0x0000] := by decide +kernel

/-- V-CHK-1, V-ORD-1 to V-ORD-4, V-ZERO-1, V-CAT-1. -/
theorem test_message_vectors :
    ([[0x31, 0x32, 0x33, 0x34, 0x35, 0x36, 0x37, 0x38, 0x39], [0x01, 0x00], [0x00, 0x01], [0xAA, 0x55], [0x55, 0xAA],
      [0x00, 0x00, 0x00, 0x31], [0x31, 0x32]] : List (List Byte)).map crc16 =
      [0xFEE8, 0x8603, 0x8005, 0xFDF4, 0x7DF9, 0x80A5, 0xA6AC] := by decide +kernel

/-- V-FRM-1: the pairing-ack's payload and frame. -/
theorem test_pairing_ack_frame :
    frameBytes (outboundPayload codePairingAck 0x01 0x0A 0xAA 0xAA 0x00) =
      [0x01, 0x11, 0x0A, 0xAA, 0xAA, 0x00, 0xFF, 0xFF, 0xFF, 0xFF, 0x30, 0x62] := by decide +kernel

/-- The frame of V-FRM-3. -/
def frm3 : List Byte := [0x01, 0x04, 0x0A, 0xAA, 0xAA, 0x01, 0x00, 0x7D, 0x10, 0x69, 0x2E, 0x82]

/-- V-FRM-3, V-FRM-7, V-FRM-10, V-FRM-11, V-FRM-12, in the comparison form. -/
theorem test_check_frame_vectors :
    ([frm3, flipBit frm3 40, frm3.take 10 ++ [0x82, 0x2E], frm3.take 11, frm3 ++ [0x55]].map fun R =>
      (nextOf (checkFrame R State.powerUp)).map Prod.snd) =
      [some .ok, some .badCrc, some .badCrc, some .badLength, some .ok] := by decide +kernel

/-- The residues of V-FRM-7, V-FRM-8, V-FRM-9, V-FRM-10. -/
theorem test_residue_vectors :
    [crc16 (flipBit frm3 40), crc16 (flipBit frm3 95), crc16 (flipBit frm3 7), crc16 (frm3.take 10 ++ [0x82, 0x2E])] =
      [0x8113, 0x8303, 0xBFC3, 0xEBE2] := by decide +kernel

/-- V-CFG-1 and V-CFG-2. -/
theorem test_config_vectors :
    (nextOf (genConfigCrc ⟨4, .bigEndian⟩ ⟨[0x03, 0x00, 0x2C, 0x01], rfl⟩ State.reset)).map Prod.snd =
      some [0x03, 0x00, 0x2C, 0x01, 0xD4, 0x06] ∧
    (nextOf (genConfigCrc ⟨4, .littleEndian⟩ ⟨[0x03, 0x00, 0x2C, 0x01], rfl⟩ State.reset)).map Prod.snd =
      some [0x03, 0x00, 0x2C, 0x01, 0x06, 0xD4] := by decide +kernel

/-- R40's forms of an operand, and what is an assembler error. -/
theorem test_assembler_operands :
    (assembleLine ['U', 'P', 'D', 'A', 'T', 'E', ' ', '0', 'x', '5', '6']).toOption = some [.update 0x56] ∧
    (assembleLine ['U', 'P', 'D', 'A', 'T', 'E', ' ', '2', '5', '5']).toOption = some [.update 0xFF] ∧
    (assembleLine ['U', 'P', 'D', 'A', 'T', 'E', ' ', '2', '5', '6']).toOption = none ∧
    (assembleLine ['U', 'P', 'D', 'A', 'T', 'E']).toOption = none ∧
    (assembleLine ['N', 'O', 'P', ' ', '1']).toOption = none := by decide +kernel

/-- R41's pseudo-instructions. -/
theorem test_assembler_sequences :
    (assembleLine ['S', 'T', 'A', 'R', 'T', ' ', '[', '0', 'x', '3', '1', ',', ' ', '5', '0', ']']).toOption =
      some [.initUpdate 0x31, .update 0x32] ∧
    (assembleLine ['S', 'T', 'A', 'R', 'T', ' ', '[', ']']).toOption = some [.init] ∧
    (assembleLine ['F', 'E', 'E', 'D', ' ', '[', ']']).toOption = some [] := by decide +kernel

/-! ## One step of each kind (V-CMD, program P3) -/

/-- One edge with `rst` at a level and a command word. -/
def oneEdge (c : CrcState) (rst : Bool) (w : CmdWord) : Option CrcState :=
  (nextOf (step (mk c [.edge (Pins.driven rst w)]))).map State.crc

/-- V-CMD-2, V-CMD-9. -/
theorem test_nop_step : oneEdge (.known 0x8005) false 0x0A5 = some (.known 0x8005) ∧
    oneEdge .unknown false 0x000 = some .unknown := by decide +kernel

/-- V-CMD-3, V-CMD-8. -/
theorem test_update_step : oneEdge (.known 0x1234) false 0x156 = some (.known 0x3598) ∧
    oneEdge .unknown false 0x155 = some .unknown := by decide +kernel

/-- V-CMD-5, V-CMD-10. -/
theorem test_init_step : oneEdge (.known 0x3598) false 0x2FF = some (.known 0x0000) ∧
    oneEdge .unknown false 0x200 = some (.known 0x0000) := by decide +kernel

/-- V-CMD-6, V-CMD-11. -/
theorem test_init_update_step : oneEdge (.known 0xFFFF) false 0x331 = some (.known 0x80A5) ∧
    oneEdge .unknown false 0x301 = some (.known 0x8005) := by decide +kernel

/-- V-CMD-12, V-CMD-13, V-CMD-14. -/
theorem test_reset_step : oneEdge .unknown true 0x000 = some (.known 0x0000) ∧
    oneEdge (.known 0xA6AC) true 0x339 = some (.known 0x0000) ∧
    oneEdge (.known 0x0000) true 0x155 = some (.known 0x0000) := by decide +kernel

theorem test_read_step : (nextOf (step (mk (.known 0x3598) [.read .crcHi]))).map State.reads = some [.crcHi 0x35] ∧
    faultOf (step (mk .unknown [.read .residueZero])) = some .unresetRead := by decide +kernel

theorem test_power_loss_step : (nextOf (step (mk (.known 0x3598) [.powerLoss]))).map State.crc = some .unknown := by
  decide +kernel

/-- The first instruction after reset. -/
theorem test_fetch_after_reset :
    (nextOf (step (State.reset.withFetchWord 16 0x331))).map State.crc = some (.known 0x80A5) := by decide +kernel

/-! ## Witnesses: states and operands that meet the hypotheses of the statements -/

/-- NopChangesNothing, UpdateAddsOneByte, InitStartsMessageAtZero, InitUpdateStartsMessageWithByte: words of each row, at
both ends. -/
theorem witness_opcode_rows :
    (0x000#10 &&& 0x300 = 0x000 ∧ 0x0FF#10 &&& 0x300 = 0x000) ∧ (0x100#10 &&& 0x300 = 0x100 ∧ 0x1FF#10 &&& 0x300 = 0x100) ∧
    (0x200#10 &&& 0x300 = 0x200 ∧ 0x2FF#10 &&& 0x300 = 0x200) ∧ (0x300#10 &&& 0x300 = 0x300 ∧ 0x3FF#10 &&& 0x300 = 0x300) := by
  decide

/-- The same statements, UnknownUntilFirstResetOrStart and ReadsShowRegisterAndAdvanceNothing: registers. -/
theorem witness_registers : (mk (.known 0x8005) []).crc = .known 0x8005 ∧ (mk (.known 0x1234) []).crc = .known 0x1234 ∧
    (mk (.known 0x3598) []).crc = .known 0x3598 ∧ State.powerUp.crc = .unknown := by decide

/-- CommandsWriteOnlyCrc: NOP, and UPDATE from `unknown`. -/
theorem witness_frame : Instr.nop = .nop ∧ Instr.update 0x55 = .update 0x55 ∧ State.powerUp.crc = .unknown := by decide

/-- Step8IsByteParallel and BytesEnterMostSignificantBitFirst: the ends of the ranges. -/
theorem witness_bit_ranges : (0 < 16 ∧ 15 < 16) ∧ (0 < 8 ∧ 7 < 8) ∧ (0 < 7 - 0 ∧ 6 < 7 - 0) := by decide

/-- RegisterHoldsCrcOfMessage and BootStatementMakesReadsSafe: UPDATEs with NOPs; each statement that boots the block. -/
theorem witness_message_statements : (∀ x ∈ [Stmt.nop, .update 0x31, .nop, .update 0x32], continuesMessage x = true) ∧
    bootsBlock .init = true ∧ bootsBlock (.initUpdate 0x01) = true ∧ bootsBlock .reset = true ∧
    HostAction.powerLoss ∉ [HostAction.read .crcOut, .clockStopped, stmtAction (.update 0x31)] := by decide

/-- ActionsTakeEffectInPresentedOrder: a run that ends in a state, and one that ends in the fault. -/
theorem witness_runs : (nextOf (runActions [.read .crcOut, .clockStopped] (mk (.known 0x8005) [.powerLoss]))).isSome = true ∧
    faultOf (runActions [.clockStopped, .read .crcOut] (mk .unknown [])) = some .unresetRead := by decide +kernel

/-- DrivenRunsAreDeterministic, ReleaseFromResetTakesNoCycles, ResetClearsRegisterAtEveryEdge, ResetAndPowerUpValues,
StepRunsDecodedCommand, EdgePerformsBlockStep, UndrivenPinsTakeSomeLevel: edges that stand first in the list. -/
theorem witness_edges : allDriven (Pins.driven true 0x339) = true ∧ (Pins.driven true 0x339).rst = some true ∧
    (mk .unknown [.edge (Pins.driven true 0x339)]).pending = .edge (Pins.driven true 0x339) :: [] ∧
    (mk .unknown [.edge (Pins.driven false 0x155), .powerLoss]).pending = .edge (Pins.driven false 0x155) :: [.powerLoss] ∧
    (mk .unknown []).pending = [] ∧ [Pins.driven true 0x155, Pins.driven true 0x000] ≠ [] ∧
    (∀ p ∈ [Pins.driven true 0x155, Pins.driven true 0x000], p.rst = some true) := by decide

/-- UndrivenPinsTakeSomeLevel: a driven pin of each kind beside an undriven one. -/
theorem witness_partly_driven_pins :
    (⟨some false, none, some true, none⟩ : Pins).rst = some false ∧ (⟨some false, none, some true, none⟩ : Pins).valid = some true ∧
    (⟨none, some true, none, some 0x31⟩ : Pins).init = some true ∧
    (⟨none, some true, none, some 0x31⟩ : Pins).data = some 0x31 := by decide

/-- EdgePerformsBlockStep: a word of each command. -/
theorem witness_decoded_words : decode 0x0A5 = .nop ∧ decode 0x156 = .update 0x56 ∧ decode 0x2FF = .init ∧
    decode 0x331 = .initUpdate 0x31 := by decide

/-- DecodeEncodeAgree and OneOpcodeRowMatchesEachWord: a well-formed command; words with `V` = 0; the rows. -/
theorem witness_encoding : WellFormed.command (.update 0x31) = true ∧ fieldV 0x200 = false ∧ fieldD 0x200 = 0x00 ∧
    (⟨0x000, 0x300⟩ : OpcodeRow) ∈ opcodeMap ∧ (⟨0x300, 0x300⟩ : OpcodeRow) ∈ opcodeMap := by decide

/-- AssemblerReadsStatementText: the first operand over one byte. -/
theorem witness_operand_too_large : numberValue ['2', '5', '6'] = some 256 ∧ 255 < 256 := by decide +kernel

/-- PowerStatesKeepOrLoseRegister, PowerLossLeavesHostSide, UnknownUntilFirstResetOrStart, OnlyUnresetReadFaultsAndIsKept: what stands first. -/
theorem witness_other_actions : (mk (.known 0x3598) [.clockStopped]).pending = .clockStopped :: [] ∧
    (mk (.known 0x3598) [.powerLoss]).pending = .powerLoss :: [] ∧
    ((mk .unknown [.read .crcLo]).crc = .unknown ∧ (mk .unknown [.read .crcLo]).pending = .read .crcLo :: []) ∧
    faultOf (step (mk .unknown [.read .crcLo])) = some .unresetRead ∧
    faultOf (runSteps 2 (mk .unknown [.clockStopped, .read .crcLo])) = some .unresetRead ∧ 2 ≤ 5 := by decide +kernel

/-- ReadsRepeatAndNopHasNoEffect: a port that answers. -/
theorem witness_readable_port : readPort .residueZero (.known 0x0000) = .ok (.residueZero true) := rfl

/-- OutputsShowRegisterAfterLastEdge: two runs of statements and the register between them. -/
theorem witness_two_runs :
    runStmts [.init, .update 0x31] State.powerUp = .next { State.powerUp with crc := .known 0x80A5, edges := 2 } ∧
    runStmts [.nop] { State.powerUp with crc := .known 0x80A5, edges := 2, reads := [.crcOut 0x80A5] } =
      .next { State.powerUp with crc := .known 0x80A5, edges := 3, reads := [.crcOut 0x80A5] } := ⟨rfl, rfl⟩

/-- BootedIsKeptByEveryStep: a booted state, its action an edge, and its next state. -/
theorem witness_booted : Booted (mk (.known 0x0000) [.edge (Pins.driven false 0x131)]) ∧
    (nextOf (step (mk (.known 0x0000) [.edge (Pins.driven false 0x131)]))).isSome = true := by decide +kernel

/-- RegisterTracksMessageAtEveryStep: a block in a message, one in none, and their steps. -/
theorem witness_tracked_message : (mk (.known 0x80A5) [.edge (Pins.driven false 0x132)]).crc = crcOfMessage (some [0x31]) ∧
    (nextOf (step (mk (.known 0x80A5) [.edge (Pins.driven false 0x132)]))).map State.crc =
      some (crcOfMessage (some [0x31, 0x32])) ∧
    (mk .unknown [.edge (Pins.driven false 0x132)]).crc = crcOfMessage none ∧
    (nextOf (step (mk .unknown [.edge (Pins.driven false 0x132)]))).map State.crc = some (crcOfMessage none) := by
  decide +kernel

/-- CheckFrameComparesTrailingCrc, ResidueCheckEqualsComparison, BytesAfterOffsetElevenAreIgnored,
SequencesTakeStatedEdgeCounts: buffers of 11 and of 12 bytes, a payload of 10. -/
theorem witness_buffers : (frm3.take 11).length < 12 ∧ 12 ≤ frm3.length ∧ frm3.length = 12 ∧ (frm3.take 10).length = 10 := by
  decide

/-- OneAndTwoBitErrorsAreDetected and BuiltFrameRoundTrips: a frame that checks, bits at both ends of it. -/
theorem witness_frame_errors : frm3.length = 12 ∧ crc16 frm3 = 0x0000 ∧ 0 < 96 ∧ 95 < 96 ∧ 95 ≠ 0 := by decide +kernel

/-- GenConfigCrcAppendsCrcInOrder and CheckConfigComparesStoredCrc: an empty image, and the stored bytes of V-CFG-1. -/
theorem witness_config : (⟨0, .bigEndian⟩ : Config.Params).cfgLen = 0 ∧
    (⟨4, .bigEndian⟩ : Config.Params).cfgCrcOrder = .bigEndian ∧
    ([0x03, 0x00, 0x2C, 0x01, 0xD4, 0x06] : List Byte)[4]? = some 0xD4 ∧
    ([0x03, 0x00, 0x2C, 0x01, 0xD4, 0x06] : List Byte)[5]? = some 0x06 := by decide

end Sys2Proof.Tests
end

section
/-! SUPPORT. Any number of rounds permutes the 16-bit words (R52), and two bytes in a row are sixteen rounds of the word
they form (R44). So every value is reached, and a message's own CRC, high byte first, takes the register to zero. -/

namespace Sys2Proof.Machine

theorem crcRounds_add (m n : Nat) (r : Word) : crcRounds (m + n) r = crcRounds n (crcRounds m r) := by
  induction m generalizing r with
  | zero => simp [crcRounds]
  | succ m ih => rw [Nat.succ_add]; exact ih (crcRound r)

/-- `POLY` is odd, so a round with the top bit set leaves bit 0 set. -/
theorem eq_zero_of_crcRound_eq_zero {r : Word} (h : crcRound r = 0#16) : r = 0#16 := by
  unfold crcRound at h
  split at h
  case isTrue htop =>
    have hodd := congrArg (BitVec.getLsbD · 0) h
    simp [poly] at hodd
  case isFalse htop =>
    apply BitVec.eq_of_getLsbD_eq
    intro k hk
    rcases Nat.lt_or_ge k 15 with hlow | htopmost
    · have hbit := congrArg (BitVec.getLsbD · (k + 1)) h
      simpa [show k + 1 < 16 by omega, BitVec.getLsbD_eq_getElem hk] using hbit
    · obtain rfl : k = 15 := by omega
      simpa [topBit] using htop

theorem crcRound_injective : Function.Injective crcRound := by
  intro a b h
  have hxor : crcRound (a ^^^ b) = 0#16 := by rw [crcRound_xor, h, BitVec.xor_self]
  exact BitVec.xor_eq_zero_iff.mp (eq_zero_of_crcRound_eq_zero hxor)

theorem crcRounds_injective (n : Nat) : Function.Injective (crcRounds n) := by
  induction n with
  | zero => exact fun _ _ h => h
  | succ n ih => exact ih.comp crcRound_injective

theorem crcRounds_surjective (n : Nat) : Function.Surjective (crcRounds n) :=
  Finite.surjective_of_injective (crcRounds_injective n)

@[simp] theorem crcRounds_zero_word (n : Nat) : crcRounds n 0#16 = 0#16 := by
  simpa using crcRounds_xor n 0#16 0#16

theorem crcRounds_eq_zero_iff (n : Nat) (r : Word) : crcRounds n r = 0x0000 ↔ r = 0x0000 := by
  simpa using (crcRounds_injective n).eq_iff (a := r) (b := 0#16)

theorem joinBytes_eq_xor (hi lo : Byte) : joinBytes hi lo = dataOperand hi ^^^ lo.setWidth 16 := by
  simpa using word_split (joinBytes hi lo)

/-- Two bytes in a row enter as the one word they form. -/
theorem step8_step8 (c : Word) (hi lo : Byte) : step8 (step8 c hi) lo = crcRounds 16 (c ^^^ joinBytes hi lo) := by
  calc step8 (step8 c hi) lo
      = crcRounds 8 (crcRounds 8 (c ^^^ dataOperand hi) ^^^ crcRounds 8 (lo.setWidth 16)) := by
        rw [crcRounds_lowByte]; rfl
    _ = crcRounds 16 (c ^^^ joinBytes hi lo) := by
        rw [← crcRounds_xor, ← crcRounds_add 8 8, joinBytes_eq_xor, BitVec.xor_assoc]

theorem crc16_append_pair (B : List Byte) (hi lo : Byte) :
    crc16 (B ++ [hi, lo]) = crcRounds 16 (crc16 B ^^^ joinBytes hi lo) := by
  rw [crc16_append]
  exact step8_step8 (crc16 B) hi lo

theorem exists_crc16_pair_eq (v : Word) : ∃ b₀ b₁ : Byte, crc16 [b₀, b₁] = v := by
  obtain ⟨w, hw⟩ := crcRounds_surjective 16 v
  refine ⟨highByte w, lowByte w, ?_⟩
  simpa [hw] using crc16_append_pair [] (highByte w) (lowByte w)

/-- The residue law, for a message of any length (R14, R63). -/
theorem crc16_append_pair_eq_zero_iff (B : List Byte) (hi lo : Byte) :
    crc16 (B ++ [hi, lo]) = 0x0000 ↔ joinBytes hi lo = crc16 B := by
  rw [crc16_append_pair, crcRounds_eq_zero_iff, eq_comm (a := joinBytes hi lo)]
  exact BitVec.xor_eq_zero_iff

end Sys2Proof.Machine
end

section
/-! SUPPORT. The register after `FEED` and `START` (R41), what the outputs read in each state of the register (R12, R20),
and a step whose action is an edge or a read. -/

namespace Sys2Proof.Machine

theorem crcAfterStmts_feed (B : List Byte) (c : Word) :
    crcAfterStmts (feed B) (.known c) = .known (B.foldl step8 c) := by
  induction B generalizing c with
  | nil => rfl
  | cons b B ih => simpa [feed] using ih (step8 c b)

/-- `FEED B` right after the register became 0x0000 leaves the message's CRC. -/
theorem crcAfterStmts_feed_zero (B : List Byte) : crcAfterStmts (feed B) (.known 0x0000) = .known (crc16 B) :=
  crcAfterStmts_feed B 0x0000

theorem crcAfterStmts_start (B : List Byte) (c : CrcState) : crcAfterStmts (start B) c = .known (crc16 B) := by
  cases B with
  | nil => rfl
  | cons b B =>
    rw [start, crcAfterStmts_cons, blockStep_initUpdate]
    exact crcAfterStmts_feed B (step8 0x0000 b)

/-- Statements end in a state whose register is `crcAfterStmts`'s. -/
theorem exists_runStmts_crc {xs : List Stmt} {s : State} {c : CrcState} (h : crcAfterStmts xs s.crc = c) :
    ∃ t, runStmts xs s = .next t ∧ t.crc = c :=
  ⟨_, runStmts_eq xs s, h⟩

theorem exists_runStmts_start (B : List Byte) (s : State) :
    ∃ t, runStmts (start B) s = .next t ∧ t.crc = .known (crc16 B) :=
  exists_runStmts_crc (crcAfterStmts_start B s.crc)

@[simp] theorem readPort_unknown (o : OutPort) : readPort o .unknown = .error .unresetRead := by
  cases o <;> rfl

@[simp] theorem readResidueZero_known (c : Word) : readResidueZero (.known c) = .ok (decide (c = 0x0000)) := rfl

theorem zeroOutputs_known_zero : ZeroOutputs (.known 0x0000) := ⟨rfl, rfl, rfl, rfl⟩

@[simp] theorem blockStep_rst (c : CrcState) (w : CmdWord) : blockStep c true w = .known 0x0000 := rfl

theorem sampledRst_of_rst {p : Pins} {b : Bool} (k : Nat) (h : p.rst = some b) : sampledRst k p = b := by
  simp [sampledRst, h]

/-- A step whose action is an edge with `rst` = 1 (R81). -/
theorem step_of_reset_edge {s : State} {p : Pins} {rest : List HostAction} (hs : s.pending = .edge p :: rest)
    (hp : p.rst = some true) :
    step s = .next { s with crc := .known 0x0000, pending := rest, edges := s.edges + 1 } := by
  rw [step_cons s _ rest hs]
  change clockEdge p { s with pending := rest } = _
  rw [clockEdge_eq, sampledRst_of_rst _ hp, blockStep_rst]
  rfl

/-- A step whose action is a read of a register without a value (R12, R76). -/
theorem step_of_unknown_read {s : State} {o : OutPort} {rest : List HostAction} (hs : s.pending = .read o :: rest)
    (hc : s.crc = .unknown) : step s = .fault .unresetRead := by
  rw [step_cons s _ rest hs]
  simp [hostAction, hc]

/-- `UPDATE` changes nothing while the register holds no value (R12, R47). -/
theorem exec_update_unknown {s : State} (d : Byte) (hc : s.crc = .unknown) : exec (.update d) s = .next s := by
  rw [exec_eq]
  cases s
  subst hc
  rfl

end Sys2Proof.Machine
end

section
/-! The settled statements about the block's state. -/

namespace Sys2Proof.Machine

/-- Settles O16: two bytes in a row are sixteen rounds of the word they form, and rounds are surjective. -/
theorem everyRegisterValueIsReachable : Obligations.EveryRegisterValueIsReachable := by
  unfold Obligations.EveryRegisterValueIsReachable
  refine ⟨fun B s => exists_runStmts_crc (crcAfterStmts_feed_zero B), fun v => ?_⟩
  obtain ⟨b₀, b₁, hv⟩ := exists_crc16_pair_eq v
  exact ⟨b₀, b₁, fun s => hv ▸ exists_runStmts_start [b₀, b₁] s⟩

/-- Settles O28: reset, every edge with `rst` = 1 and INIT all leave 0x0000, so they share one reading of the outputs. -/
theorem resetAndPowerUpValues : Obligations.ResetAndPowerUpValues := by
  unfold Obligations.ResetAndPowerUpValues
  refine ⟨⟨rfl, readPort_unknown⟩, ⟨rfl, zeroOutputs_known_zero⟩, ?_, ?_, ?_⟩
  · intro s p rest hs hp
    exact ⟨_, step_of_reset_edge hs hp, rfl, zeroOutputs_known_zero⟩
  · intro s
    exact ⟨_, exec_eq .init s, rfl, zeroOutputs_known_zero⟩
  · intro B s
    exact exists_runStmts_crc (crcAfterStmts_feed_zero B)

/-- Settles O38: the last clause is the residue law `crc16_append_pair_eq_zero_iff` at the payload's bytes. -/
theorem residueZeroFollowsRegister : Obligations.ResidueZeroFollowsRegister := by
  unfold Obligations.ResidueZeroFollowsRegister
  refine ⟨readResidueZero_known, rfl, ?_, ?_⟩
  · intro s
    exact ⟨_, _, runStmts_eq [.reset] s, runStmts_eq [.init] s, rfl, rfl⟩
  · intro P hi lo s
    obtain ⟨t, hrun, hcrc⟩ := exists_runStmts_start (payloadBytes P ++ [hi, lo]) s
    refine ⟨t, hrun, ?_⟩
    rw [hcrc, readResidueZero_known]
    exact congrArg Except.ok (decide_eq_decide.mpr (crc16_append_pair_eq_zero_iff (payloadBytes P) hi lo))

/-- Settles O35: `unknown` answers every read with the fault, NOP and UPDATE keep it, and each start leaves a value. -/
theorem unknownUntilFirstResetOrStart : Obligations.UnknownUntilFirstResetOrStart := by
  unfold Obligations.UnknownUntilFirstResetOrStart
  refine ⟨rfl, fun s o rest hc hs => step_of_unknown_read hs hc, ?_, ?_⟩
  · intro s hc
    exact ⟨rfl, fun d => exec_update_unknown d hc⟩
  · intro s d
    exact ⟨_, _, _, exec_eq .init s, exec_eq (.initUpdate d) s, runStmts_eq [.reset] s, by simp, by simp, by simp⟩

end Sys2Proof.Machine
end

section
/-! SUPPORT. Where a data byte's bits stand in the register, and rounds that find the top bit clear: they only shift, so
a bit moves up by one place a round (R24, R43). -/

namespace Sys2Proof.Machine

theorem getLsbD_dataOperand (d : Byte) (k : Nat) :
    (dataOperand d).getLsbD k = (!decide (k < 8) && d.getLsbD (k - 8)) := by
  rcases Nat.lt_or_ge k 16 with hk | hk
  · simp [dataOperand, hk]
  · simp [dataOperand, BitVec.getLsbD_of_ge, show 8 ≤ k - 8 by omega]

@[simp] theorem lowByte_dataOperand (d : Byte) : lowByte (dataOperand d) = 0x00 := by
  apply BitVec.eq_of_getLsbD_eq
  intro k hk
  simp [lowByte, getLsbD_dataOperand, hk]

theorem lowByte_xor (a b : Word) : lowByte (a ^^^ b) = lowByte a ^^^ lowByte b := by
  apply BitVec.eq_of_getLsbD_eq
  intro k hk
  simp [lowByte, hk]

/-- A byte enters the upper half of the register only (R24). -/
theorem lowByte_xor_dataOperand (c : Word) (d : Byte) : lowByte (c ^^^ dataOperand d) = lowByte c := by
  simp [lowByte_xor]

theorem topBit_shiftLeft (r : Word) {n : Nat} (hn : n ≤ 15) : topBit (r <<< n) = r.getLsbD (15 - n) := by
  simp [topBit, hn.not_gt, -BitVec.getLsbD_eq_getElem]

theorem crcRound_of_topBit_clear {r : Word} (h : topBit r = false) : crcRound r = r <<< 1 := by
  simp [crcRound, h]

/-- `n` rounds of a word whose upper `n` bits are clear never add `POLY`. -/
theorem crcRounds_eq_shiftLeft {n : Nat} (hn : n ≤ 16) {r : Word} (h : ∀ j < n, r.getLsbD (15 - j) = false) :
    crcRounds n r = r <<< n := by
  induction n with
  | zero => simp [crcRounds]
  | succ n ih =>
    have hshift : crcRounds n r = r <<< n := ih (by omega) fun j hj => h j (by omega)
    have htop : topBit (r <<< n) = false := by rw [topBit_shiftLeft r (by omega)]; exact h n (by omega)
    calc crcRounds (n + 1) r
        = crcRound (crcRounds n r) := crcRounds_add n 1 r
      _ = r <<< (n + 1) := by rw [hshift, crcRound_of_topBit_clear htop, BitVec.shiftLeft_add]

/-- After `n` rounds the top-bit test meets bit `15 - n`, as long as no bit above it was set. -/
theorem topBit_crcRounds {n : Nat} (hn : n ≤ 15) {r : Word} (h : ∀ j < n, r.getLsbD (15 - j) = false) :
    topBit (crcRounds n r) = r.getLsbD (15 - n) := by
  rw [crcRounds_eq_shiftLeft (by omega) h, topBit_shiftLeft r hn]

/-- A lone data bit `k` stands at bit `k + 8` of the register. -/
theorem getLsbD_dataOperand_bit {k i : Nat} (hk : k < 8) :
    (dataOperand (1#8 <<< k)).getLsbD i = decide (i = k + 8) := by
  rw [getLsbD_dataOperand]
  by_cases hi : i = k + 8
  · simp [hi, hk]
  · simp [hi]
    omega

/-- A lone data bit `k` meets the top-bit test after `7 - k` rounds and in no round before (R24). -/
theorem topBit_crcRounds_dataOperand_bit {k n : Nat} (hk : k < 8) (hn : n ≤ 7 - k) :
    topBit (crcRounds n (dataOperand (1#8 <<< k))) = decide (n = 7 - k) := by
  have hclear : ∀ j < n, (dataOperand (1#8 <<< k)).getLsbD (15 - j) = false := by
    intro j hj
    rw [getLsbD_dataOperand_bit hk]
    exact decide_eq_false (by omega)
  rw [topBit_crcRounds (by omega) hclear, getLsbD_dataOperand_bit hk]
  exact decide_eq_decide.mpr (by omega)

end Sys2Proof.Machine
end

section
/-! SUPPORT. What one presented edge does, what a NOP with any `data` does, and any number of reads of a port that
answers (R29, R37, R55). -/

namespace Sys2Proof.Machine

/-- One edge with every pin driven puts the block's whole step into the register and counts itself. -/
theorem runActions_driven_edge (r : Bool) (w : CmdWord) (s : State) :
    runActions [.edge (Pins.driven r w)] s = .next (s.countEdge.withCrc (blockStep s.crc r w)) := by
  change andThen (clockEdge (Pins.driven r w) s) (runActions []) = _
  rw [clockEdge_eq, sampledRst_driven, sampledCmd_driven]
  rfl

/-- `D` is ignored in a NOP (R37). -/
@[simp] theorem blockStep_nop_word (c : CrcState) (d : Byte) : blockStep c false (cmdWord false false d) = c := by
  simp [blockStep, decode_cmdWord]

theorem hostAction_read {o : OutPort} {s : State} {v : Sample} (h : readPort o s.crc = .ok v) :
    hostAction (.read o) s = .next (s.logRead v) := by
  simp [hostAction, h]

/-- A read leaves the register as it is, so each one that follows gives the same sample. -/
theorem runActions_replicate_read {o : OutPort} {v : Sample} (n : Nat) {s : State} (h : readPort o s.crc = .ok v) :
    runActions (List.replicate n (.read o)) s = .next { s with reads := s.reads ++ List.replicate n v } := by
  induction n generalizing s with
  | zero => simp
  | succ n ih =>
    rw [List.replicate_succ, runActions_cons, hostAction_read h]
    change runActions (List.replicate n (.read o)) (s.logRead v) = _
    rw [ih (s := s.logRead v) h]
    simp [State.logRead, List.replicate_succ]

end Sys2Proof.Machine
end

section
/-! The settled statements about how bytes enter the register and about whole edges and repeated reads. -/

namespace Sys2Proof.Machine

/-- Settles O37: an edge is one `blockStep`, which a NOP leaves without effect; reads by induction on their number. -/
theorem readsRepeatAndNopHasNoEffect : Obligations.ReadsRepeatAndNopHasNoEffect := by
  unfold Obligations.ReadsRepeatAndNopHasNoEffect
  refine ⟨?_, fun o n s v hv => runActions_replicate_read n hv, ?_⟩
  · intro w s
    exact ⟨_, runActions_driven_edge false w s, rfl⟩
  · intro d s
    rw [runActions_driven_edge, blockStep_nop_word]
    rfl

/-- Settles O11: rounds before the first set bit reaches the top only shift, so a lone bit `k + 8` needs `7 - k`. -/
theorem bytesEnterMostSignificantBitFirst : Obligations.BytesEnterMostSignificantBitFirst := by
  unfold Obligations.BytesEnterMostSignificantBitFirst
  refine ⟨?_, lowByte_xor_dataOperand, ?_⟩
  · intro c d k hk
    simp [getLsbD_dataOperand]
  · intro k hk
    refine ⟨?_, fun j hj => ?_⟩
    · simp [topBit_crcRounds_dataOperand_bit hk le_rfl]
    · rw [topBit_crcRounds_dataOperand_bit hk hj.le]
      exact decide_eq_false hj.ne

end Sys2Proof.Machine
end

section
/-! SUPPORT. The decoder against the opcode map (R36) and against the encoder (R37, R42), on a word's fields: the two
top bits choose the command, and the byte comes back where the command takes it. -/

namespace Sys2Proof

/-- The map's mask keeps the two top bits and drops `D`. -/
theorem cmdWord_and_mask (i v : Bool) (d : Byte) : cmdWord i v d &&& 0x300 = cmdWord i v 0x00 := by
  revert d; cases i <;> cases v <;> decide

/-- The decoded command's row holds just what the mask leaves of the word. -/
theorem opcodeRow_decode (w : CmdWord) : opcodeRow (decode w) = ⟨w &&& 0x300, 0x300⟩ := by
  rw [← cmdWord_fields w, cmdWord_and_mask, decode_cmdWord]
  cases fieldI w <;> cases fieldV w <;> rfl

theorem opcodeRow_mem (i : Instr) : opcodeRow i ∈ opcodeMap := by
  cases i <;> simp [opcodeRow, opcodeMap]

theorem mask_of_mem_opcodeMap {r : OpcodeRow} (h : r ∈ opcodeMap) : r.mask = 0x300 := by
  revert r; decide

theorem rowMatches_iff (r : OpcodeRow) (w : CmdWord) : rowMatches r w = true ↔ w &&& r.mask = r.matchBits := by
  simp [rowMatches]

theorem fieldD_eq_extractLsb' (w : CmdWord) : fieldD w = w.extractLsb' 0 8 := BitVec.setWidth_eq_extractLsb' (by decide)

@[simp] theorem decode_encode (i : Instr) : decode (encode i) = i := by
  cases i <;> exact decode_cmdWord _ _ _

/-- Encoding a decoded word keeps `I` and `V`, and `D` only where the command takes a byte (R37). -/
theorem encode_decode (w : CmdWord) :
    encode (decode w) = cmdWord (fieldI w) (fieldV w) (if fieldV w then fieldD w else 0x00) := by
  unfold decode
  cases fieldI w <;> cases fieldV w <;> rfl

theorem encode_decode_eq_self_iff (w : CmdWord) : encode (decode w) = w ↔ (fieldV w = false → fieldD w = 0x00) := by
  rw [encode_decode]
  constructor
  · intro h hV
    have hD := congrArg fieldD h
    rw [fieldD_cmdWord, hV] at hD
    exact hD.symm
  · intro h
    have hD : (if fieldV w then fieldD w else 0x00) = fieldD w := by
      cases hV : fieldV w with
      | false => exact (h hV).symm
      | true => rfl
    rw [hD, cmdWord_fields]

theorem decodeTableWord_toNat (n : Nat) (w : CmdWord) : decodeTableWord n w.toNat = some (decode w) := by
  simp [decodeTableWord, decodeNumber, WellFormed.commandWord, w.isLt]

namespace Machine

/-- An edge with `rst` = 0 and the pins driven with `w` performs the command `w` decodes to (R33). -/
theorem clockEdge_driven (w : CmdWord) (s : State) :
    clockEdge (Pins.driven false w) s = exec (decode w) s.countEdge := by
  simp [clockEdge]

theorem step_of_command_edge {s : State} {w : CmdWord} {rest : List HostAction}
    (hs : s.pending = .edge (Pins.driven false w) :: rest) :
    step s = exec (decode w) { s with pending := rest, edges := s.edges + 1 } := by
  rw [step_cons s _ rest hs]
  exact clockEdge_driven w { s with pending := rest }

/-- The word presented for the next step is the one that step performs. -/
theorem step_withFetchWord (n : Nat) (w : CmdWord) (s : State) :
    step (s.withFetchWord n w.toNat) = exec (decode w) { s with edges := s.edges + 1 } := by
  apply step_of_command_edge (s := s.withFetchWord n w.toNat)
  simp [State.withFetchWord, presentWord]

end Machine

end Sys2Proof
end

section
/-! The settled statements about the command words and the statements that expand. -/

namespace Sys2Proof.Machine

/-- Settles O26: `encode_decode` says what is lost of a word, namely a `D` that its command does not take. -/
theorem decodeEncodeAgree : Obligations.DecodeEncodeAgree := by
  unfold Obligations.DecodeEncodeAgree
  refine ⟨?_, ?_, encode_decode_eq_self_iff⟩
  · intro w
    rw [← fieldD_eq_extractLsb']
    rfl
  · intro i _
    refine ⟨decode_encode i, ?_, fun s => ?_⟩
    · rw [decodeTableWord_toNat, decode_encode]
    · rw [step_withFetchWord, decode_encode]

/-- Settles O14: the expansions are `feed` and `start` themselves; the register is `crcAfterStmts_start`'s. -/
theorem startExpandsAndComputesCrc : Obligations.StartExpandsAndComputesCrc := by
  unfold Obligations.StartExpandsAndComputesCrc
  exact ⟨fun _ => rfl, rfl, rfl, fun _ _ => rfl, exists_runStmts_start⟩

/-- Settles O21. -/
theorem stepRunsDecodedCommand : Obligations.StepRunsDecodedCommand := by
  unfold Obligations.StepRunsDecodedCommand
  intro w rest s hs
  exact step_of_command_edge hs

/-- Settles O23: every row has the same mask, so a matching row is the one `opcodeRow_decode` gives. -/
theorem oneOpcodeRowMatchesEachWord : Obligations.OneOpcodeRowMatchesEachWord := by
  unfold Obligations.OneOpcodeRowMatchesEachWord
  intro w
  refine ⟨opcodeRow_mem (decode w), fun r hr => ?_⟩
  have hmask := mask_of_mem_opcodeMap hr
  rw [rowMatches_iff, opcodeRow_decode, hmask, OpcodeRow.mk.injEq]
  exact ⟨fun h => ⟨h.symm, hmask⟩, fun h => h.1.symm⟩

/-- Settles O24: `decode_cmdWord` drops `D` where `V` = 0, so every `D` runs the same command. -/
theorem dataIgnoredInNopAndInit : Obligations.DataIgnoredInNopAndInit := by
  unfold Obligations.DataIgnoredInNopAndInit
  have hdecode : ∀ d : Byte, decode (cmdWord false false d) = .nop ∧ decode (cmdWord true false d) = .init :=
    fun d => ⟨decode_cmdWord false false d, decode_cmdWord true false d⟩
  refine ⟨hdecode, fun d s => ?_, rfl, rfl⟩
  obtain ⟨hnop, hinit⟩ := hdecode d
  obtain ⟨hnop₀, hinit₀⟩ := hdecode 0x00
  rw [hnop, hinit, hnop₀, hinit₀]
  exact ⟨rfl, rfl⟩

end Sys2Proof.Machine
end

section
/-! SUPPORT. The update function as a whole: a function of the word `c ^ {d, 0x00}`, linear, split by the table `T`
(R44), a permutation of the register for each byte (R52), and zero bytes as eight rounds each (R53). -/

namespace Sys2Proof.Machine

theorem joinBytes_zero (a : Byte) : joinBytes a 0x00 = dataOperand a := by
  simpa using joinBytes_eq_xor a 0x00

@[simp] theorem highByte_dataOperand (d : Byte) : highByte (dataOperand d) = d := by
  rw [← joinBytes_zero, highByte_joinBytes]

theorem dataOperand_injective : Function.Injective dataOperand :=
  Function.LeftInverse.injective highByte_dataOperand

theorem tableT_eq_crcRounds (x : Byte) : tableT x = crcRounds 8 (dataOperand x) := by
  simp [tableT, step8]

/-- The register's high byte is shifted out and replaced by a function of it and the byte (R44). -/
theorem step8_eq_joinBytes_xor_tableT (c : Word) (d : Byte) :
    step8 c d = joinBytes (lowByte c) 0x00 ^^^ tableT (highByte c ^^^ d) := by
  have hsplit : c ^^^ dataOperand d = (lowByte c).setWidth 16 ^^^ dataOperand (highByte c ^^^ d) := by
    rw [dataOperand_xor]
    conv_lhs => rw [word_split c]
    ac_rfl
  calc step8 c d
      = crcRounds 8 ((lowByte c).setWidth 16) ^^^ crcRounds 8 (dataOperand (highByte c ^^^ d)) := by
        rw [← crcRounds_xor, ← hsplit, step8]
    _ = joinBytes (lowByte c) 0x00 ^^^ tableT (highByte c ^^^ d) := by
        rw [crcRounds_lowByte, joinBytes_zero, tableT_eq_crcRounds]

@[simp] theorem tableT_zero : tableT 0#8 = 0#16 := by decide

theorem tableT_injective : Function.Injective tableT := by
  intro x y h
  rw [tableT_eq_crcRounds, tableT_eq_crcRounds] at h
  exact dataOperand_injective (crcRounds_injective 8 h)

theorem tableT_eq_zero_iff (x : Byte) : tableT x = 0x0000 ↔ x = 0x00 := by
  simpa using tableT_injective.eq_iff (a := x) (b := 0#8)

theorem tableT_xor (x y : Byte) : tableT (x ^^^ y) = tableT x ^^^ tableT y := by
  simp only [tableT_eq_crcRounds, dataOperand_xor, crcRounds_xor]

theorem eq_zero_of_lowByte_tableT_eq_zero : ∀ x : Byte, lowByte (tableT x) = 0x00 → x = 0x00 := by decide

theorem lowByte_tableT_injective : Function.Injective fun x => lowByte (tableT x) := by
  intro x y h
  have hxor : lowByte (tableT (x ^^^ y)) = 0x00 := by
    rw [tableT_xor, lowByte_xor]
    exact BitVec.xor_eq_zero_iff.mpr h
  exact BitVec.xor_eq_zero_iff.mp (eq_zero_of_lowByte_tableT_eq_zero _ hxor)

theorem step8_bijective (d : Byte) : Function.Bijective fun c => step8 c d := by
  rw [← Finite.injective_iff_bijective]
  intro a b h
  exact (BitVec.xor_left_inj (dataOperand d)).mp (crcRounds_injective 8 h)

/-- A byte equal to the register's high byte cancels it. -/
theorem step8_highByte (c : Word) : step8 c (highByte c) = joinBytes (lowByte c) 0x00 := by
  simp [step8_eq_joinBytes_xor_tableT]

theorem step8_zero_byte (c : Word) : step8 c 0x00 = crcRounds 8 c := by
  simp [step8, dataOperand]

/-- Zero bytes only turn the register, eight rounds each. -/
theorem foldl_step8_replicate_zero (m : Nat) (c : Word) :
    (List.replicate m 0x00).foldl step8 c = crcRounds (8 * m) c := by
  induction m generalizing c with
  | zero => rfl
  | succ m ih =>
    rw [List.replicate_succ, List.foldl_cons, ih, step8_zero_byte, ← crcRounds_add, Nat.mul_succ, Nat.add_comm]

theorem crc16_replicate_zero (k : Nat) : crc16 (List.replicate k 0x00) = 0x0000 := by
  rw [crc16, foldl_step8_replicate_zero]
  exact crcRounds_zero_word _

theorem crc16_replicate_zero_append (k : Nat) (B : List Byte) : crc16 (List.replicate k 0x00 ++ B) = crc16 B := by
  rw [crc16_append, crc16_replicate_zero]
  rfl

/-- V-TAB lists `T` at 0, 1, ..., 255. -/
theorem vTab_eq_map_tableT : vTab = (List.range 256).map fun n => tableT (BitVec.ofNat 8 n) := by decide +kernel

theorem vTab_getElem? (x : Byte) : vTab[x.toNat]? = some (tableT x) := by
  simp [vTab_eq_map_tableT, List.getElem?_range x.isLt]

end Sys2Proof.Machine
end

section
/-! SUPPORT. The round as R43 writes it, and the next-state equations of R45 as the split of R44, bit by bit. -/

namespace Sys2Proof.Machine

theorem crcRounds_eq_iterate (n : Nat) (r : Word) : crcRounds n r = crcRound^[n] r := by
  induction n generalizing r with
  | zero => rfl
  | succ n ih => exact ih (crcRound r)

theorem topBit_eq_msb (r : Word) : topBit r = r.msb := (BitVec.msb_eq_getLsbD_last r).symm

/-- The equations of R45 from an all-zero register are the bits of `T`. -/
theorem parallelBits_zero (t : Byte) : parallelBits 0x0000 t = (List.range 16).map (tableT t).getLsbD := by
  revert t; decide +kernel

/-- The register's part in the equations of R45 is its low byte, moved up. -/
theorem parallelBits_eq_zipWith (c : Word) (t : Byte) :
    parallelBits c t =
      List.zipWith xor ((List.range 16).map (dataOperand (lowByte c)).getLsbD) (parallelBits 0x0000 t) := by
  simp [parallelBits, List.range, List.range.loop, getLsbD_dataOperand, lowByte,
    -BitVec.getLsbD_eq_getElem]

theorem parallelBits_getElem? (c : Word) (t : Byte) {k : Nat} (hk : k < 16) :
    (parallelBits c t)[k]? = some ((dataOperand (lowByte c)).getLsbD k ^^ (tableT t).getLsbD k) := by
  rw [parallelBits_eq_zipWith, parallelBits_zero]
  simp [hk, -BitVec.getLsbD_eq_getElem]

end Sys2Proof.Machine
end

section
/-! The settled statements about the update function. -/

namespace Sys2Proof.Machine

/-- Settles O6: eight rounds are the round iterated, and the top-bit test is `msb`. -/
theorem step8IsEightRoundLoop : Obligations.Step8IsEightRoundLoop := by
  unfold Obligations.Step8IsEightRoundLoop
  intro c d
  have hround : (fun r : Word => if r.msb then (r <<< 1) ^^^ 0x8005#16 else r <<< 1) = crcRound := by
    funext r
    rw [crcRound, topBit_eq_msb]
    rfl
  rw [hround, step8, crcRounds_eq_iterate, dataOperand]

/-- Settles O7: `step8_eq_joinBytes_xor_tableT`, and V-TAB as a list computed from `T`. -/
theorem step8SplitsByTable : Obligations.Step8SplitsByTable := by
  unfold Obligations.Step8SplitsByTable
  exact ⟨step8_eq_joinBytes_xor_tableT, by simp [vTab_eq_map_tableT], vTab_getElem?⟩

/-- Settles O8: both sides split into the low byte moved up and `T` of the same byte. -/
theorem step8IsByteParallel : Obligations.Step8IsByteParallel := by
  unfold Obligations.Step8IsByteParallel
  intro c d k hk
  rw [parallelBits_getElem? c _ hk, step8_eq_joinBytes_xor_tableT, joinBytes_zero, BitVec.getLsbD_xor]

/-- Settles O10. -/
theorem step8IsBijectiveAndTableInjective : Obligations.Step8IsBijectiveAndTableInjective := by
  unfold Obligations.Step8IsBijectiveAndTableInjective
  exact ⟨step8_bijective, tableT_injective, tableT_eq_zero_iff, lowByte_tableT_injective⟩

end Sys2Proof.Machine
end

section
/-! SUPPORT. Command words told apart by the bits the opcode map's mask keeps (R36), the register after a message's
statements (R48, R50), steps whose edge has every pin driven (R58), and reads of a register that holds a value (R55). -/

namespace Sys2Proof.Machine

/-- A word whose masked bits are those of `i` and `v` is `{i, v, D}`, so its decoding is `decode_cmdWord`'s. -/
theorem eq_cmdWord_of_and_mask {w : CmdWord} {i v : Bool} (h : w &&& 0x300 = cmdWord i v 0x00) :
    w = cmdWord i v (w.extractLsb' 0 8) := by
  rw [← cmdWord_fields w, cmdWord_and_mask] at h
  have hI : fieldI w = i := by simpa using congrArg fieldI h
  have hV : fieldV w = v := by simpa using congrArg fieldV h
  rw [← hI, ← hV, ← fieldD_eq_extractLsb', cmdWord_fields]

theorem decode_of_and_mask {w : CmdWord} {i v : Bool} (h : w &&& 0x300 = cmdWord i v 0x00) :
    decode w = decode (cmdWord i v (w.extractLsb' 0 8)) :=
  congrArg decode (eq_cmdWord_of_and_mask h)

/-- `UPDATE d` on a register that holds a value (R47). -/
theorem exec_update_known {s : State} {c : Word} (d : Byte) (hc : s.crc = .known c) :
    exec (.update d) s = .next { s with crc := .known (step8 c d) } := by
  rw [exec_eq, hc]
  rfl

theorem crcAfterStmts_replicate_init (n : Nat) :
    crcAfterStmts (List.replicate n .init) (.known 0x0000) = .known 0x0000 := by
  induction n with
  | zero => rfl
  | succ n ih => rw [List.replicate_succ, crcAfterStmts_cons, blockStep_init, ih]

/-- `UPDATE`s with `NOP`s anywhere add their bytes to a register that holds a value (R50). -/
theorem crcAfterStmts_continue {xs : List Stmt} (h : ∀ x ∈ xs, continuesMessage x = true) (c : Word) :
    crcAfterStmts xs (.known c) = .known ((messageBytes xs).foldl step8 c) := by
  induction xs generalizing c with
  | nil => rfl
  | cons x xs ih =>
    obtain ⟨hx, hxs⟩ := List.forall_mem_cons.mp h
    cases x with
    | nop => exact ih hxs c
    | update d =>
      rw [crcAfterStmts_cons, blockStep_update, addByte_known, ih hxs]
      rfl
    | init | initUpdate d | reset => cases hx

/-- A message's first statement leaves `c`, and the ones that continue it leave its CRC. -/
theorem exists_runStmts_message {x : Stmt} {xs : List Stmt} {s : State} {c : Word}
    (hx : blockStep s.crc (stmtRst x) (stmtWord x) = .known c) (hxs : ∀ y ∈ xs, continuesMessage y = true) :
    ∃ t, runStmts (x :: xs) s = .next t ∧ t.crc = .known ((messageBytes xs).foldl step8 c) :=
  exists_runStmts_crc (by rw [crcAfterStmts_cons, hx, crcAfterStmts_continue hxs])

/-- Where the host drives every pin, what is sampled does not depend on the edge's number. -/
theorem sampled_eq_of_allDriven {p : Pins} (h : allDriven p = true) (j k : Nat) :
    sampledRst j p = sampledRst k p ∧ sampledCmd j p = sampledCmd k p := by
  obtain ⟨rst, init, valid, data⟩ := p
  simp only [allDriven, Bool.and_eq_true, Option.isSome_iff_exists] at h
  obtain ⟨⟨⟨⟨r, rfl⟩, i, rfl⟩, v, rfl⟩, d, rfl⟩ := h
  exact ⟨rfl, rfl⟩

/-- A step whose action is an edge performs the block's step of R56 on what is sampled. -/
theorem step_of_edge {s : State} {p : Pins} {rest : List HostAction} (hs : s.pending = .edge p :: rest) :
    step s = .next { s with
      crc := blockStep s.crc (sampledRst s.edges p) (sampledCmd s.edges p), pending := rest, edges := s.edges + 1 } := by
  rw [step_cons s _ rest hs]
  exact clockEdge_eq p { s with pending := rest }

/-- A step whose action is a read of a port that answers takes the action and records the sample (R55). -/
theorem step_of_read {s : State} {o : OutPort} {v : Sample} (rest : List HostAction) (hv : readPort o s.crc = .ok v) :
    step { s with pending := .read o :: rest } = .next { s with pending := rest, reads := s.reads ++ [v] } := by
  rw [step_cons _ (.read o) rest rfl]
  exact hostAction_read (s := { s with pending := rest }) hv

end Sys2Proof.Machine
end

section
/-! The settled statements about the four commands. -/

namespace Sys2Proof.Machine

/-- Settles O1: runs are `crcAfterStmts`, on which a `NOP` has no effect. -/
theorem nopChangesNothing : Obligations.NopChangesNothing := by
  unfold Obligations.NopChangesNothing
  refine ⟨?_, fun s => rfl, ?_, fun s _ => rfl⟩
  · intro w hw
    exact (decode_of_and_mask (i := false) (v := false) hw).trans (decode_cmdWord _ _ _)
  · intro xs ys s
    refine ⟨_, _, runStmts_eq _ s, runStmts_eq _ s, ?_⟩
    simp [crcAfterStmts_append]

/-- Settles O2: `exec_eq`'s arm of UPDATE in each state of the register, and the permutation `step8_bijective`. -/
theorem updateAddsOneByte : Obligations.UpdateAddsOneByte := by
  unfold Obligations.UpdateAddsOneByte
  refine ⟨?_, fun s c d hc => exec_update_known d hc, ?_, fun c d => readResidueZero_known _, tableT_zero,
    step8_highByte, step8_bijective, ?_⟩
  · intro w hw
    exact (decode_of_and_mask (i := false) (v := true) hw).trans (decode_cmdWord _ _ _)
  · intro s d hc
    refine ⟨exec_update_unknown d hc, fun o => ?_⟩
    rw [hc, readPort_unknown]
  · intro s hc
    exact exec_update_known 0x56 hc

/-- Settles O3: the first INIT leaves 0x0000, which every further one keeps. -/
theorem initStartsMessageAtZero : Obligations.InitStartsMessageAtZero := by
  unfold Obligations.InitStartsMessageAtZero
  refine ⟨?_, exec_eq .init, rfl, runStmts_eq [.init], ?_, fun s _ => exec_eq .init s⟩
  · intro w hw
    exact (decode_of_and_mask (i := true) (v := false) hw).trans (decode_cmdWord _ _ _)
  · intro n s
    exact exists_runStmts_crc (crcAfterStmts_replicate_init n)

/-- Settles O4: from any register, INIT_UPDATE `d` leaves `T(d)`, which is zero only at `d` = 0x00. -/
theorem initUpdateStartsMessageWithByte : Obligations.InitUpdateStartsMessageWithByte := by
  unfold Obligations.InitUpdateStartsMessageWithByte
  refine ⟨?_, fun s d => exec_eq (.initUpdate d) s, ?_, ?_, ?_, ?_⟩
  · intro w hw
    exact (decode_of_and_mask (i := true) (v := true) hw).trans (decode_cmdWord _ _ _)
  · intro d
    rw [readResidueZero_known]
    exact congrArg Except.ok (decide_eq_decide.mpr (tableT_eq_zero_iff d))
  · intro s d
    refine ⟨_, _, runStmts_eq _ s, runStmts_eq _ s, ?_⟩
    simp
  · intro A d s
    exact exists_runStmts_crc (by simp [crcAfterStmts_append, tableT])
  · intro s
    exact exec_eq (.initUpdate 0x31) s

end Sys2Proof.Machine
end

section
/-! The settled statements about messages, the edge and reads. -/

namespace Sys2Proof.Machine

/-- Settles O13: each start leaves the CRC of the bytes so far, and `crcAfterStmts_continue` adds the rest. -/
theorem registerHoldsCrcOfMessage : Obligations.RegisterHoldsCrcOfMessage := by
  unfold Obligations.RegisterHoldsCrcOfMessage
  intro xs s hxs
  exact ⟨exists_runStmts_message (blockStep_init s.crc) hxs, exists_runStmts_message (blockStep_reset s.crc) hxs,
    fun b => exists_runStmts_message (blockStep_initUpdate s.crc b) hxs⟩

/-- Settles O15: zero bytes only turn the register, and 0x0000 stays 0x0000. -/
theorem leadingZeroBytesDoNotCount : Obligations.LeadingZeroBytesDoNotCount := by
  unfold Obligations.LeadingZeroBytesDoNotCount
  refine ⟨crc16_replicate_zero_append, crc16_replicate_zero, fun k B s => ?_⟩
  refine ⟨_, _, runStmts_eq _ s, runStmts_eq _ s, ?_⟩
  simp only [crcAfterStmts_start]
  rw [crc16_replicate_zero_append]

/-- Settles O20: a run's register is `crcAfterStmts` of the first register, and driven pins take no draw. -/
theorem drivenRunsAreDeterministic : Obligations.DrivenRunsAreDeterministic := by
  unfold Obligations.DrivenRunsAreDeterministic
  refine ⟨?_, ?_⟩
  · intro xs s t c hs ht
    refine ⟨_, _, runStmts_eq xs s, runStmts_eq xs t, ?_⟩
    rw [hs, ht]
  · intro p rest s k hp hs
    obtain ⟨hrst, hcmd⟩ := sampled_eq_of_allDriven hp k s.edges
    refine ⟨_, step_of_edge hs, ?_⟩
    rw [step_of_edge (s := { s with edges := k }) hs, hrst, hcmd]

/-- Settles O22: `blockStep` by the decoded command, and the machine's edge by `step_of_edge`. -/
theorem edgePerformsBlockStep : Obligations.EdgePerformsBlockStep := by
  unfold Obligations.EdgePerformsBlockStep
  refine ⟨blockStep_rst, fun c w hw => ?_, fun c w d hw => ?_, fun c w hw => ?_, fun c w d hw => ?_,
    fun s p rest hs => step_of_edge hs, fun c => rfl, rfl⟩ <;> simp [blockStep, hw]

/-- Settles O36: each port's sample of a register that holds `c`, and the register after START (R41). -/
theorem readsShowRegisterAndAdvanceNothing : Obligations.ReadsShowRegisterAndAdvanceNothing := by
  unfold Obligations.ReadsShowRegisterAndAdvanceNothing
  refine ⟨?_, ?_⟩
  · intro s c rest hc
    refine ⟨step_of_read rest ?_, step_of_read rest ?_, step_of_read rest ?_, step_of_read rest ?_⟩ <;> (rw [hc]; rfl)
  · intro B s
    obtain ⟨t, hrun, hcrc⟩ := exists_runStmts_start B s
    refine ⟨t, hrun, ?_⟩
    rw [hcrc]
    rfl

end Sys2Proof.Machine
end

section
/-! SUPPORT. A changed byte changes the CRC by its difference, turned eight rounds by it and by each byte that follows
(R51). So a flipped bit of a frame adds a 1 turned some number of rounds; rounds permute the words, and fewer than 96
of them never turn a 1 into itself, so no two such bits cancel (R57). -/

namespace Sys2Proof.Machine

theorem step8_xor_word (a b : Word) (d : Byte) : step8 (a ^^^ b) d = step8 a d ^^^ crcRounds 8 b := by
  rw [step8, step8, ← crcRounds_xor]
  congr 1
  ac_rfl

/-- A difference in the register is turned eight rounds by every byte that follows. -/
theorem foldl_step8_xor_word (B : List Byte) (a b : Word) :
    B.foldl step8 (a ^^^ b) = B.foldl step8 a ^^^ crcRounds (8 * B.length) b := by
  induction B generalizing a b with
  | nil => rfl
  | cons d B ih =>
    rw [List.foldl_cons, step8_xor_word, ih, ← crcRounds_add, List.foldl_cons, List.length_cons, Nat.mul_succ,
      Nat.add_comm 8]

theorem step8_xor_byte (c : Word) (d e : Byte) : step8 c (d ^^^ e) = step8 c d ^^^ crcRounds 8 (dataOperand e) := by
  rw [step8, step8, ← crcRounds_xor, dataOperand_xor, BitVec.xor_assoc]

/-- A byte changed by `e` changes the CRC by `e`, turned eight rounds by it and by every byte after it. -/
theorem crc16_append_xor_cons (A C : List Byte) (d e : Byte) :
    crc16 (A ++ (d ^^^ e) :: C) = crc16 (A ++ d :: C) ^^^ crcRounds (8 * (C.length + 1)) (dataOperand e) := by
  rw [crc16_append, crc16_append, List.foldl_cons, step8_xor_byte, foldl_step8_xor_word, ← crcRounds_add,
    List.foldl_cons, Nat.mul_succ, Nat.add_comm 8]

/-- A lone data bit stands where shifting a 1 takes it. -/
theorem dataOperand_bit {k : Nat} (hk : k < 8) : dataOperand (1#8 <<< k) = crcRounds (k + 8) 1#16 := by
  rw [crcRounds_eq_shiftLeft (by omega)]
  · apply BitVec.eq_of_getLsbD_eq
    intro i hi
    rw [getLsbD_dataOperand_bit hk, BitVec.getLsbD_shiftLeft, BitVec.getLsbD_one, Bool.eq_iff_iff]
    simp only [decide_eq_true_eq, Bool.and_eq_true, Bool.not_eq_true', decide_eq_false_iff_not]
    omega
  · intro j hj
    simp [show ¬ 15 - j = 0 by omega, -BitVec.getLsbD_eq_getElem]

/-- The rounds that turn a 1 into what a flipped bit `k` of a 12-byte frame adds to its CRC: `k % 8 + 8` to where the bit
enters the register, then eight for byte `k / 8` and for every byte after it. -/
def flipRounds (k : Nat) : Nat := 8 * (12 - k / 8) + (k % 8 + 8)

theorem flipRounds_injOn {i j : Nat} (hi : i < 96) (hj : j < 96) (h : flipRounds i = flipRounds j) : i = j := by
  unfold flipRounds at h
  omega

@[simp] theorem flipBit_length (R : List Byte) (k : Nat) : (flipBit R k).length = R.length := by
  simp [flipBit]

theorem crc16_flipBit {R : List Byte} (hR : R.length = 12) {k : Nat} (hk : k < 96) :
    crc16 (flipBit R k) = crc16 R ^^^ crcRounds (flipRounds k) 1#16 := by
  have hpos : k / 8 < R.length := by omega
  have hlen : (R.drop (k / 8 + 1)).length + 1 = 12 - k / 8 := by
    rw [List.length_drop]
    omega
  have hsplit : R.take (k / 8) ++ R[k / 8] :: R.drop (k / 8 + 1) = R := by
    rw [← List.drop_eq_getElem_cons hpos, List.take_append_drop]
  rw [flipBit, List.modify_eq_take_cons_drop hpos, crc16_append_xor_cons, hsplit, hlen,
    dataOperand_bit (Nat.mod_lt k (by decide)), ← crcRounds_add, Nat.add_comm]
  rfl

/-- The polynomial's order is above the frame's length. -/
theorem crcRounds_one_ne_one : ∀ m < 96, m ≠ 0 → crcRounds m 1#16 ≠ 1#16 := by decide +kernel

theorem crcRounds_one_ne_zero (m : Nat) : crcRounds m 1#16 ≠ 0#16 :=
  (crcRounds_eq_zero_iff m 1#16).not.mpr (by decide)

theorem crcRounds_one_ne_of_lt {m n : Nat} (hlt : m < n) (hn : n < m + 96) : crcRounds m 1#16 ≠ crcRounds n 1#16 := by
  intro h
  have hturn : crcRounds (n - m) 1#16 = 1#16 := by
    apply crcRounds_injective m
    rw [← crcRounds_add, Nat.sub_add_cancel hlt.le, h]
  exact crcRounds_one_ne_one (n - m) (by omega) (by omega) hturn

theorem crcRounds_flipRounds_ne {i j : Nat} (hi : i < 96) (hj : j < 96) (hne : j ≠ i) :
    crcRounds (flipRounds i) 1#16 ≠ crcRounds (flipRounds j) 1#16 := by
  have hrounds : flipRounds j ≠ flipRounds i := fun h => hne (flipRounds_injOn hj hi h)
  have hbound : ∀ k < 96, 16 ≤ flipRounds k ∧ flipRounds k < 112 := by
    intro k hk
    unfold flipRounds
    omega
  have hbi := hbound i hi
  have hbj := hbound j hj
  rcases Nat.lt_or_gt_of_ne hrounds with h | h
  · exact (crcRounds_one_ne_of_lt h (by omega)).symm
  · exact crcRounds_one_ne_of_lt h (by omega)

theorem crc16_flipBit_ne_zero {R : List Byte} (hR : R.length = 12) (hcrc : crc16 R = 0x0000) {i : Nat} (hi : i < 96) :
    crc16 (flipBit R i) ≠ 0x0000 := by
  rw [crc16_flipBit hR hi, hcrc]
  simpa using crcRounds_one_ne_zero (flipRounds i)

theorem crc16_flipBit_flipBit_ne_zero {R : List Byte} (hR : R.length = 12) (hcrc : crc16 R = 0x0000) {i j : Nat}
    (hi : i < 96) (hj : j < 96) (hne : j ≠ i) : crc16 (flipBit (flipBit R i) j) ≠ 0x0000 := by
  rw [crc16_flipBit (by simpa using hR) hj, crc16_flipBit hR hi, hcrc]
  intro h
  apply crcRounds_flipRounds_ne hi hj hne
  exact BitVec.xor_eq_zero_iff.mp (by simpa using h)

/-- The residue form on a whole frame: `START` of its 12 bytes, then the flag (R63). -/
theorem exists_checkFrameResidue {R : List Byte} (hR : 12 ≤ R.length) (s : State) :
    ∃ t, checkFrameResidue R s = .next (t, if crc16 (R.take 12) = 0x0000 then .ok else .badCrc) := by
  obtain ⟨t, hrun, hcrc⟩ := exists_runStmts_start (R.take 12) s
  refine ⟨t, ?_⟩
  simp [checkFrameResidue, WellFormed.frameBuffer, hR, hrun, hcrc, andThen, hostRead]

theorem exists_checkFrameResidue_badCrc {R : List Byte} (hR : R.length = 12) (hcrc : crc16 R ≠ 0x0000) (s : State) :
    ∃ t, checkFrameResidue R s = .next (t, .badCrc) := by
  obtain ⟨t, ht⟩ := exists_checkFrameResidue hR.ge s
  rw [List.take_of_length_le hR.le, if_neg hcrc] at ht
  exact ⟨t, ht⟩

end Sys2Proof.Machine
end

section
/-! The settled statement about corrupted frames. -/

namespace Sys2Proof.Machine

/-- Settles O51: a flipped bit adds a 1 turned `flipRounds k` rounds, and two such words are never equal. -/
theorem oneAndTwoBitErrorsAreDetected : Obligations.OneAndTwoBitErrorsAreDetected := by
  unfold Obligations.OneAndTwoBitErrorsAreDetected
  intro R hR hcrc i hi
  have hone := crc16_flipBit_ne_zero hR hcrc hi
  refine ⟨⟨hone, exists_checkFrameResidue_badCrc (by simpa using hR) hone⟩, fun j hj hne => ?_⟩
  have htwo := crc16_flipBit_flipBit_ne_zero hR hcrc hi hj hne
  exact ⟨htwo, exists_checkFrameResidue_badCrc (by simpa using hR) htwo⟩

end Sys2Proof.Machine
end

section
/-! SUPPORT. Words and messages as polynomials over GF(2) (R54). In the ring of polynomials modulo `G`, a round multiplies
the register by x, so a byte takes the register `r` to `(r + d x^8) x^8`. -/

namespace Sys2Proof.Machine

open Polynomial

/-- The polynomial whose coefficient of `x^k` is `b k`, for `k` below `n`. -/
noncomputable def bitsPoly (n : Nat) (b : Nat → Bool) : (ZMod 2)[X] :=
  ∑ k ∈ Finset.range n, if b k then X ^ k else 0

/-- `G(x)` (R54). -/
noncomputable def genPoly : (ZMod 2)[X] := X ^ 16 + X ^ 15 + X ^ 2 + 1

theorem ite_xor (a b : Bool) (p : (ZMod 2)[X]) :
    (if a ^^ b then p else 0) = (if a then p else 0) + if b then p else 0 := by
  cases a <;> cases b <;> simp [CharTwo.add_self_eq_zero]

theorem bitsPoly_xor (n : Nat) (a b : Nat → Bool) :
    bitsPoly n (fun k => a k ^^ b k) = bitsPoly n a + bitsPoly n b := by
  simp only [bitsPoly, ← Finset.sum_add_distrib]
  exact Finset.sum_congr rfl fun k _ => ite_xor (a k) (b k) (X ^ k)

theorem bitsPoly_congr {n : Nat} {a b : Nat → Bool} (h : ∀ k < n, a k = b k) : bitsPoly n a = bitsPoly n b :=
  Finset.sum_congr rfl fun k hk => by rw [h k (Finset.mem_range.mp hk)]

theorem bitsPoly_word_xor (a b : Word) :
    bitsPoly 16 (a ^^^ b).getLsbD = bitsPoly 16 a.getLsbD + bitsPoly 16 b.getLsbD := by
  rw [← bitsPoly_xor]
  exact bitsPoly_congr fun k _ => BitVec.getLsbD_xor

theorem bitsPoly_false (n : Nat) : bitsPoly n (fun _ => false) = 0 := by simp [bitsPoly]

/-- The upper bits of a stretch of bits are a polynomial times a power of x. -/
theorem bitsPoly_add (m n : Nat) (b : Nat → Bool) :
    bitsPoly (m + n) b = bitsPoly m b + X ^ m * bitsPoly n (fun k => b (m + k)) := by
  simp only [bitsPoly, Finset.sum_range_add, Finset.mul_sum, mul_ite, mul_zero, pow_add]

theorem bitsPoly_degree_lt (n : Nat) (b : Nat → Bool) : (bitsPoly n b).degree < n := by
  rw [← mem_degreeLT]
  refine Submodule.sum_mem _ fun k hk => ?_
  rw [mem_degreeLT]
  split
  · rw [degree_X_pow]
    exact_mod_cast Finset.mem_range.mp hk
  · simp

theorem genPoly_eq : genPoly = X ^ 16 + bitsPoly 16 poly.getLsbD := by
  simp [genPoly, bitsPoly, Finset.sum_range_succ, poly]
  ring

theorem genPoly_monic : genPoly.Monic := by
  rw [genPoly_eq]
  exact monic_X_pow_add (bitsPoly_degree_lt 16 _)

theorem genPoly_degree : genPoly.degree = 16 := by
  have hlow : (bitsPoly 16 poly.getLsbD).degree < (X ^ 16 : (ZMod 2)[X]).degree := by
    simpa using bitsPoly_degree_lt 16 poly.getLsbD
  rw [genPoly_eq, degree_add_eq_left_of_degree_lt hlow, degree_X_pow]
  rfl

/-- Multiplying by x shifts the register, and the bit that falls out of it is x^16. -/
theorem bitsPoly_shiftLeft (r : Word) :
    X * bitsPoly 16 r.getLsbD = bitsPoly 16 (r <<< 1).getLsbD + if topBit r then X ^ 16 else 0 := by
  have hlow : bitsPoly 16 (r <<< 1).getLsbD = X * bitsPoly 15 r.getLsbD := by
    have hzero : bitsPoly 1 (r <<< 1).getLsbD = 0 := by simp [bitsPoly]
    rw [bitsPoly_add 1 15, hzero, zero_add, pow_one]
    exact congrArg _ (bitsPoly_congr fun k hk => by simp [show 1 + k < 16 by omega, -BitVec.getLsbD_eq_getElem])
  have htop : bitsPoly 1 (fun k => r.getLsbD (15 + k)) = if topBit r then 1 else 0 := by
    simp [bitsPoly, topBit]
  rw [hlow, bitsPoly_add 15 1, htop, mul_add, ← mul_assoc, ← pow_succ', mul_ite, mul_one, mul_zero]

/-- A round multiplies the register by x, modulo `G` (R43, R54). -/
theorem mk_crcRound (r : Word) :
    AdjoinRoot.mk genPoly (bitsPoly 16 (crcRound r).getLsbD) = AdjoinRoot.mk genPoly (X * bitsPoly 16 r.getLsbD) := by
  rw [bitsPoly_shiftLeft, crcRound]
  cases topBit r with
  | false => simp
  | true =>
    have hpoly : AdjoinRoot.mk genPoly (bitsPoly 16 poly.getLsbD) = AdjoinRoot.mk genPoly (X ^ 16) := by
      rw [AdjoinRoot.mk_eq_mk, sub_eq_add_neg, CharTwo.neg_eq, add_comm, ← genPoly_eq]
    rw [if_pos rfl, if_pos rfl, bitsPoly_word_xor, map_add, map_add, hpoly]

theorem mk_crcRounds (n : Nat) (r : Word) :
    AdjoinRoot.mk genPoly (bitsPoly 16 (crcRounds n r).getLsbD) =
      AdjoinRoot.mk genPoly (X ^ n * bitsPoly 16 r.getLsbD) := by
  induction n generalizing r with
  | zero => simp [crcRounds]
  | succ n ih => rw [crcRounds, ih, map_mul, mk_crcRound, ← map_mul, pow_succ, mul_assoc]

theorem bitsPoly_dataOperand (d : Byte) : bitsPoly 16 (dataOperand d).getLsbD = X ^ 8 * bitsPoly 8 d.getLsbD := by
  have hlow : bitsPoly 8 (dataOperand d).getLsbD = 0 := by
    rw [← bitsPoly_false 8]
    exact bitsPoly_congr fun k hk => by simp [getLsbD_dataOperand, hk, -BitVec.getLsbD_eq_getElem]
  have hhigh : bitsPoly 8 (fun k => (dataOperand d).getLsbD (8 + k)) = bitsPoly 8 d.getLsbD :=
    bitsPoly_congr fun k hk => by simp [getLsbD_dataOperand, -BitVec.getLsbD_eq_getElem]
  rw [bitsPoly_add 8 8, hlow, hhigh, zero_add]

theorem mk_step8 (c : Word) (d : Byte) :
    AdjoinRoot.mk genPoly (bitsPoly 16 (step8 c d).getLsbD) =
      AdjoinRoot.mk genPoly (X ^ 8 * (bitsPoly 16 c.getLsbD + X ^ 8 * bitsPoly 8 d.getLsbD)) := by
  rw [step8, mk_crcRounds, bitsPoly_word_xor, bitsPoly_dataOperand]

/-- The message polynomial `B(x)` (R54). -/
noncomputable def messagePoly (B : List Byte) : (ZMod 2)[X] := bitsPoly (8 * B.length) (messageNumber B).testBit

theorem messageNumber_snoc (B : List Byte) (b : Byte) : messageNumber (B ++ [b]) = 2 ^ 8 * messageNumber B + b.toNat := by
  simp [messageNumber, Nat.mul_comm]

theorem messagePoly_snoc (B : List Byte) (b : Byte) :
    messagePoly (B ++ [b]) = bitsPoly 8 b.getLsbD + X ^ 8 * messagePoly B := by
  have hbit : ∀ k, (messageNumber (B ++ [b])).testBit k =
      if k < 8 then b.getLsbD k else (messageNumber B).testBit (k - 8) := by
    intro k
    rw [messageNumber_snoc, Nat.testBit_two_pow_mul_add _ b.isLt, BitVec.testBit_toNat]
  have hlen : 8 * (B ++ [b]).length = 8 + 8 * B.length := by
    rw [List.length_append, List.length_singleton]
    omega
  rw [messagePoly, hlen, bitsPoly_add]
  congr 1
  · exact bitsPoly_congr fun k hk => by rw [hbit, if_pos hk]
  · exact congrArg _ (bitsPoly_congr fun k _ => by rw [hbit, if_neg (by omega), Nat.add_sub_cancel_left])

/-- The CRC is congruent to the message times x^16, modulo `G`: each byte multiplies both by x^8 and adds itself. -/
theorem mk_crc16 (B : List Byte) :
    AdjoinRoot.mk genPoly (bitsPoly 16 (crc16 B).getLsbD) = AdjoinRoot.mk genPoly (messagePoly B * X ^ 16) := by
  induction B using List.reverseRecOn with
  | nil => simp [messagePoly, bitsPoly]
  | append_singleton B b ih =>
    rw [crc16_snoc, mk_step8, messagePoly_snoc, map_mul, map_add, ih, ← map_add, ← map_mul]
    congr 1
    ring

theorem bitsPoly_crc16_eq_modByMonic (B : List Byte) :
    bitsPoly 16 (crc16 B).getLsbD = (messagePoly B * X ^ 16) %ₘ genPoly := by
  have hself : bitsPoly 16 (crc16 B).getLsbD %ₘ genPoly = bitsPoly 16 (crc16 B).getLsbD := by
    rw [modByMonic_eq_self_iff genPoly_monic, genPoly_degree]
    exact bitsPoly_degree_lt 16 _
  rw [← hself]
  exact modByMonic_eq_of_dvd_sub genPoly_monic (AdjoinRoot.mk_eq_mk.mp (mk_crc16 B))

end Sys2Proof.Machine
end

section
/-! The settled statement about the CRC as a remainder. -/

namespace Sys2Proof.Machine

/-- Settles O12: the CRC is congruent to the message times x^16 and of lower degree than `G`. -/
theorem crc16IsPolynomialRemainder : Obligations.Crc16IsPolynomialRemainder := by
  unfold Obligations.Crc16IsPolynomialRemainder
  exact bitsPoly_crc16_eq_modByMonic

end Sys2Proof.Machine
end

section
/-! SUPPORT. The frame sequences on the state `START` leaves: what each answers of the payload's CRC and of the residue
(R60, R62, R63), the verdict both forms of the check share, and the frame the host builds (R59). -/

namespace Sys2Proof.Machine

/-- Of a sequence that is not empty, `START` makes one statement per byte (R41). -/
theorem start_length {B : List Byte} (hB : B ≠ []) : (start B).length = B.length := by
  cases B with
  | nil => exact absurd rfl hB
  | cons b B => simp [start, feed]

/-- `START` of the first `n` bytes of a buffer that holds them takes `n` edges. -/
theorem start_take_length {R : List Byte} {n : Nat} (hn : 0 < n) (hR : n ≤ R.length) : (start (R.take n)).length = n := by
  have hlen : (R.take n).length = n := List.length_take_of_le hR
  rw [start_length (List.ne_nil_of_length_pos (by omega)), hlen]

theorem checkFrame_of_short {R : List Byte} (hR : R.length < 12) (s : State) :
    checkFrame R s = .next (s, .badLength) := by
  simp [checkFrame, WellFormed.frameBuffer, hR]

theorem checkFrameResidue_of_short {R : List Byte} (hR : R.length < 12) (s : State) :
    checkFrameResidue R s = .next (s, .badLength) := by
  simp [checkFrameResidue, WellFormed.frameBuffer, hR]

/-- The comparison form reads `crc_out` after `START` of the payload (R62). -/
theorem checkFrame_of_run {R : List Byte} {s t : State} {c : Word} (hR : 12 ≤ R.length)
    (hrun : runStmts (start (R.take 10)) s = .next t) (hcrc : t.crc = .known c) :
    checkFrame R s = .next (t, if c = joinBytes R[10] R[11] then .ok else .badCrc) := by
  have h10 : R.getD 10 0 = R[10] := List.getD_eq_getElem R 0 (by omega)
  have h11 : R.getD 11 0 = R[11] := List.getD_eq_getElem R 0 (by omega)
  rw [checkFrame, WellFormed.frameBuffer, decide_eq_true hR, if_pos rfl, hrun, h10, h11]
  simp only [andThen, hcrc]
  rfl

/-- The residue form reads `residue_zero` after `START` of the payload and the CRC bytes (R63). -/
theorem checkFrameResidue_of_run {R : List Byte} {s t : State} {c : Word} (hR : 12 ≤ R.length)
    (hrun : runStmts (start (R.take 12)) s = .next t) (hcrc : t.crc = .known c) :
    checkFrameResidue R s = .next (t, if readResidueZero t.crc = .ok true then .ok else .badCrc) := by
  rw [checkFrameResidue, WellFormed.frameBuffer, decide_eq_true hR, if_pos rfl, hrun]
  simp [andThen, hostRead, hcrc]

theorem take_twelve_eq_append_pair {R : List Byte} (hR : 12 ≤ R.length) : R.take 12 = R.take 10 ++ [R[10], R[11]] := by
  rw [← List.take_concat_get' R 11 (by omega), ← List.take_concat_get' R 10 (by omega), List.append_assoc]
  rfl

/-- The residue law on a buffer: zero over 12 bytes says that bytes 10 and 11 are the payload's CRC (R63). -/
theorem crc16_take_twelve_eq_zero_iff {R : List Byte} (hR : 12 ≤ R.length) :
    crc16 (R.take 12) = 0x0000 ↔ crc16 (R.take 10) = joinBytes R[10] R[11] := by
  rw [take_twelve_eq_append_pair hR, crc16_append_pair_eq_zero_iff, eq_comm]

/-- The comparison form's verdict, said of the residue. -/
theorem exists_checkFrame {R : List Byte} (hR : 12 ≤ R.length) (s : State) :
    ∃ t, checkFrame R s = .next (t, if crc16 (R.take 12) = 0x0000 then .ok else .badCrc) := by
  obtain ⟨t, hrun, hcrc⟩ := exists_runStmts_start (R.take 10) s
  refine ⟨t, ?_⟩
  simp only [checkFrame_of_run hR hrun hcrc, crc16_take_twelve_eq_zero_iff hR]

/-- On a buffer that is one frame, the comparison form accepts exactly where the CRC over the frame is zero. -/
theorem exists_checkFrame_of_frame {R : List Byte} (hR : R.length = 12) (s : State) :
    ∃ t, checkFrame R s = .next (t, if crc16 R = 0x0000 then .ok else .badCrc) := by
  obtain ⟨t, ht⟩ := exists_checkFrame hR.ge s
  rw [List.take_of_length_le hR.le] at ht
  exact ⟨t, ht⟩

/-- The comparison form uses the first 12 bytes only (R64). -/
theorem checkFrame_append {R : List Byte} (tail : List Byte) (hR : 12 ≤ R.length) (s : State) :
    checkFrame (R ++ tail) s = checkFrame R s := by
  have hRt : 12 ≤ (R ++ tail).length := by rw [List.length_append]; omega
  rw [checkFrame, checkFrame, WellFormed.frameBuffer, WellFormed.frameBuffer, decide_eq_true hR, decide_eq_true hRt,
    List.take_append_of_le_length (by omega), List.getD_append _ _ _ _ (by omega), List.getD_append _ _ _ _ (by omega)]

/-- The residue form uses the first 12 bytes only (R64). -/
theorem checkFrameResidue_append {R : List Byte} (tail : List Byte) (hR : 12 ≤ R.length) (s : State) :
    checkFrameResidue (R ++ tail) s = checkFrameResidue R s := by
  have hRt : 12 ≤ (R ++ tail).length := by rw [List.length_append]; omega
  rw [checkFrameResidue, checkFrameResidue, WellFormed.frameBuffer, WellFormed.frameBuffer, decide_eq_true hR,
    decide_eq_true hRt, List.take_append_of_le_length hR]

/-- `GEN_FRAME_CRC` answers the frame and the state `START` of the payload leaves (R60). -/
theorem exists_genFrameCrc (P : Payload) (s : State) :
    ∃ t, genFrameCrc P s = .next (t, frameBytes P) ∧ runStmts (start (payloadBytes P)) s = .next t := by
  obtain ⟨t, hrun, hcrc⟩ := exists_runStmts_start (payloadBytes P) s
  refine ⟨t, ?_, hrun⟩
  rw [genFrameCrc, hrun]
  simp only [andThen, hcrc]
  rfl

@[simp] theorem frameBytes_length (P : Payload) : (frameBytes P).length = 12 := rfl

/-- A built frame has residue zero (R63, R65). -/
theorem crc16_frameBytes (P : Payload) : crc16 (frameBytes P) = 0x0000 :=
  (crc16_append_pair_eq_zero_iff (payloadBytes P) _ _).mpr (joinBytes_bytes _)

end Sys2Proof.Machine
end

section
/-! The settled statements about the frame sequences. -/

namespace Sys2Proof.Machine

/-- Settles O47: the expansion is `start` of the ten listed bytes; the frame and the state are `exists_genFrameCrc`'s. -/
theorem genFrameCrcAppendsBigEndianCrc : Obligations.GenFrameCrcAppendsBigEndianCrc := by
  unfold Obligations.GenFrameCrcAppendsBigEndianCrc
  intro P s
  exact ⟨rfl, rfl, exists_genFrameCrc P s⟩

/-- Settles O48: the register after START of the payload is its CRC, which is what the comparison reads. -/
theorem checkFrameComparesTrailingCrc : Obligations.CheckFrameComparesTrailingCrc := by
  unfold Obligations.CheckFrameComparesTrailingCrc
  intro R s
  refine ⟨fun hR => checkFrame_of_short hR s, fun hR => ?_⟩
  obtain ⟨t, hrun, hcrc⟩ := exists_runStmts_start (R.take 10) s
  exact ⟨t, hrun, start_take_length (by decide) (by omega), checkFrame_of_run hR hrun hcrc⟩

/-- Settles O49: by the residue law both forms decide whether the CRC over 12 bytes is zero. -/
theorem residueCheckEqualsComparison : Obligations.ResidueCheckEqualsComparison := by
  unfold Obligations.ResidueCheckEqualsComparison
  refine ⟨fun R s hR => checkFrameResidue_of_short hR s, ?_, ?_, ?_⟩
  · intro R s hR
    obtain ⟨t, hrun, hcrc⟩ := exists_runStmts_start (R.take 12) s
    exact ⟨t, hrun, start_take_length (by decide) hR, checkFrameResidue_of_run hR hrun hcrc⟩
  · intro P t _
    rw [crc16_append_pair_eq_zero_iff, joinBytes_bytes, eq_comm]
  · intro R s
    rcases Nat.lt_or_ge R.length 12 with hR | hR
    · exact ⟨s, s, .badLength, checkFrame_of_short hR s, checkFrameResidue_of_short hR s⟩
    · obtain ⟨t, ht⟩ := exists_checkFrame hR s
      obtain ⟨u, hu⟩ := exists_checkFrameResidue hR s
      exact ⟨t, u, _, ht, hu⟩

/-- Settles O50: the length check passes either way, and each form takes bytes 0 to 11 only. -/
theorem bytesAfterOffsetElevenAreIgnored : Obligations.BytesAfterOffsetElevenAreIgnored := by
  unfold Obligations.BytesAfterOffsetElevenAreIgnored
  intro R tail s hR
  exact ⟨checkFrame_append tail hR.ge s, checkFrameResidue_append tail hR.ge s⟩

/-- Settles O52: the built frame's residue is zero, and one or two flipped bits make it nonzero (R57). -/
theorem builtFrameRoundTrips : Obligations.BuiltFrameRoundTrips := by
  unfold Obligations.BuiltFrameRoundTrips
  intro P s
  have hlen := frameBytes_length P
  have hcrc := crc16_frameBytes P
  obtain ⟨t, hgen, -⟩ := exists_genFrameCrc P s
  refine ⟨t, frameBytes P, hgen, ?_, fun i hi => ?_, fun i hi j hj hne => ?_⟩
  · simpa only [if_pos hcrc] using exists_checkFrame_of_frame hlen t
  · have hone := crc16_flipBit_ne_zero hlen hcrc hi
    simpa only [if_neg hone] using exists_checkFrame_of_frame (R := flipBit (frameBytes P) i) (by simp) t
  · have htwo := crc16_flipBit_flipBit_ne_zero hlen hcrc hi hj hne.symm
    simpa only [if_neg htwo] using
      exists_checkFrame_of_frame (R := flipBit (flipBit (frameBytes P) i) j) (by simp) t

end Sys2Proof.Machine
end

section
/-! SUPPORT. Everything a step can do, runs of steps in two stretches (R76), the block's step on each opcode's word (R74),
and steps with the clock stopped or the power lost (R80). -/

namespace Sys2Proof.Machine

/-- A step answers a next state, unless it reads a register without a value (R12, R76). -/
theorem step_cases (s : State) :
    (∃ t, step s = .next t) ∨
    (step s = .fault .unresetRead ∧ s.crc = .unknown ∧ ∃ o rest, s.pending = .read o :: rest) := by
  cases hs : s.pending with
  | nil => exact .inl ⟨_, (step_nil s hs).trans (clockEdge_eq _ s)⟩
  | cons a rest =>
    rw [step_cons s a rest hs]
    obtain ⟨p, -, h⟩ | ⟨o, v, -, -, h⟩ | ⟨o, rfl, hc, h⟩ | ⟨-, h⟩ | ⟨-, h⟩ :=
      hostAction_cases a { s with pending := rest }
    case inr.inr.inl => exact .inr ⟨h, hc, o, rest, rfl⟩
    all_goals exact .inl ⟨_, h⟩

/-- Steps in two stretches, the second from where the first ended; a stop in the first is the whole run's. -/
theorem runSteps_add (j k : Nat) (s : State) : runSteps (j + k) s = andThen (runSteps j s) (runSteps k) := by
  induction j generalizing s with
  | zero => rw [Nat.zero_add]; rfl
  | succ j ih =>
    rw [Nat.add_right_comm]
    simp only [runSteps, andThen_assoc]
    exact congrArg (andThen (step s)) (funext ih)

@[simp] theorem blockStep_update_word (c : CrcState) (d : Byte) :
    blockStep c false (cmdWord false true d) = c.addByte d := by
  rw [← stmtWord_update]
  exact blockStep_update c d

@[simp] theorem blockStep_init_word (c : CrcState) (d : Byte) :
    blockStep c false (cmdWord true false d) = .known 0x0000 := by
  simp [blockStep, decode_cmdWord]

@[simp] theorem blockStep_initUpdate_word (c : CrcState) (d : Byte) :
    blockStep c false (cmdWord true true d) = .known (step8 0x0000 d) := by
  rw [← stmtWord_initUpdate]
  exact blockStep_initUpdate c d

/-- A step whose action is time with the clock stopped (R80). -/
theorem step_of_clockStopped {s : State} {rest : List HostAction} (hs : s.pending = .clockStopped :: rest) :
    step s = .next { s with pending := rest } :=
  step_cons s .clockStopped rest hs

/-- A step whose action is a loss of power (R80). -/
theorem step_of_powerLoss {s : State} {rest : List HostAction} (hs : s.pending = .powerLoss :: rest) :
    step s = .next { s with crc := .unknown, pending := rest } :=
  step_cons s .powerLoss rest hs

theorem runActions_replicate_clockStopped (n : Nat) (s : State) :
    runActions (List.replicate n .clockStopped) s = .next s := by
  induction n with
  | zero => rfl
  | succ n ih => exact ih

end Sys2Proof.Machine
end

section
/-! The settled statements about faults, simultaneous events and the power states. -/

namespace Sys2Proof.Machine

/-- Settles O42: `step_cases` leaves one way to stop, and a longer run begins with the run that stopped. -/
theorem onlyUnresetReadFaultsAndIsKept : Obligations.OnlyUnresetReadFaultsAndIsKept := by
  unfold Obligations.OnlyUnresetReadFaultsAndIsKept
  refine ⟨fun s f hf => ?_, fun s r hr => ?_, fun s j k f hf hjk => ?_⟩
  · obtain ⟨t, ht⟩ | ⟨hstep, hc, hread⟩ := step_cases s
    · cases hf.symm.trans ht
    · cases hf.symm.trans hstep
      exact ⟨rfl, hc, hread⟩
  · obtain ⟨t, ht⟩ | ⟨hstep, -⟩ := step_cases s
    · cases hr.symm.trans ht
    · cases hr.symm.trans hstep
  · obtain ⟨m, rfl⟩ := Nat.exists_eq_add_of_le hjk
    rw [runSteps_add, hf]
    rfl

/-- Settles O32: the block's step on each of the four opcodes' words, and reset before any of them. -/
theorem simultaneousEventsFollowPriority : Obligations.SimultaneousEventsFollowPriority := by
  unfold Obligations.SimultaneousEventsFollowPriority
  refine ⟨fun c i v d => blockStep_rst c _, fun c d => ?_, fun c d =>
    ⟨blockStep_nop_word c d, blockStep_init_word c d, blockStep_update_word c d⟩⟩
  rw [blockStep_initUpdate_word, blockStep_init_word, blockStep_update_word, addByte_known]

/-- Settles O33: a stopped clock only leaves the list of actions, so outputs follow an unchanged register. -/
theorem powerStatesKeepOrLoseRegister : Obligations.PowerStatesKeepOrLoseRegister := by
  unfold Obligations.PowerStatesKeepOrLoseRegister
  refine ⟨fun s rest hs => ?_, runActions_replicate_clockStopped, fun s rest hs => ?_⟩
  · exact ⟨_, step_of_clockStopped hs, rfl, fun _ => rfl⟩
  · exact ⟨_, step_of_powerLoss hs, rfl⟩

end Sys2Proof.Machine
end

section
/-! SUPPORT. One statement's or one reset edge's effect on the state, runs that a list of statements or a read of `crc_out`
begins (R30, R55, R86), and what keeps the register known (R81, R84) or without a value (R12). -/

namespace Sys2Proof.Machine

/-- An edge with `rst` = 1 resets the block, whatever its other pins (R81). -/
theorem hostAction_reset_edge {p : Pins} (hp : p.rst = some true) (s : State) :
    hostAction (.edge p) s = .next (applyReset s.countEdge) := by
  change clockEdge p s = _
  rw [clockEdge, sampledRst_of_rst _ hp, if_pos rfl]

theorem hostAction_stmtAction (x : Stmt) (s : State) :
    hostAction (stmtAction x) s = .next (s.countEdge.withCrc (blockStep s.crc (stmtRst x) (stmtWord x))) := by
  change clockEdge (Pins.driven (stmtRst x) (stmtWord x)) s = _
  rw [clockEdge_eq, sampledRst_driven, sampledCmd_driven]

theorem runActions_cons_of_next {a : HostAction} {s t : State} (h : hostAction a s = .next t) (as : List HostAction) :
    runActions (a :: as) s = runActions as t := by
  rw [runActions_cons, h]
  rfl

theorem runActions_stmts_append {xs : List Stmt} {s t : State} (h : runStmts xs s = .next t) (as : List HostAction) :
    runActions (xs.map stmtAction ++ as) s = runActions as t := by
  rw [runActions_append, ← runStmts, h]
  rfl

/-- A read of `crc_out` behind a run of statements records the register they left; the rest goes on from there (R86). -/
theorem runActions_stmts_read {xs : List Stmt} {s t : State} {c : Word} (h : runStmts xs s = .next t)
    (hc : t.crc = .known c) (as : List HostAction) :
    runActions (xs.map stmtAction ++ .read .crcOut :: as) s = runActions as (t.logRead (.crcOut c)) := by
  rw [runActions_stmts_append h, runActions_cons_of_next (hostAction_read (v := .crcOut c) (by rw [hc]; rfl))]

/-- Two runs of statements with a read of `crc_out` behind each take one edge per statement, and the reads show the
register each run left (R86, R87). -/
theorem runActions_two_reads {xs ys : List Stmt} {s : State} {a b : Word} (hxs : crcAfterStmts xs s.crc = .known a)
    (hys : crcAfterStmts ys (.known a) = .known b) :
    runActions (xs.map stmtAction ++ .read .crcOut :: (ys.map stmtAction ++ [.read .crcOut])) s =
      .next { s with
        crc := .known b, edges := s.edges + xs.length + ys.length, reads := s.reads ++ [.crcOut a, .crcOut b] } := by
  rw [runActions_stmts_read (runStmts_eq xs s) hxs, hxs, runActions_stmts_read (runStmts_eq ys _) hys]
  simp [State.logRead, hys]

theorem crcAfterStmts_replicate_nop (n : Nat) (c : CrcState) : crcAfterStmts (List.replicate n .nop) c = c := by
  induction n with
  | zero => rfl
  | succ n ih => rw [List.replicate_succ, crcAfterStmts_cons, blockStep_nop, ih]

/-- `NOP`s and `UPDATE`s give no value to a register that holds none (R12). -/
theorem crcAfterStmts_continue_unknown {xs : List Stmt} (h : ∀ x ∈ xs, continuesMessage x = true) :
    crcAfterStmts xs .unknown = .unknown := by
  induction xs with
  | nil => rfl
  | cons x xs ih =>
    obtain ⟨hx, hxs⟩ := List.forall_mem_cons.mp h
    cases x with
    | nop => exact ih hxs
    | update d => rw [crcAfterStmts_cons, blockStep_update, addByte_unknown, ih hxs]
    | init | initUpdate d | reset => cases hx

/-- Edges with `rst` = 1 leave 0x0000, which one of them gives the register unless it was there before (R81). -/
theorem exists_runActions_reset_edges {ps : List Pins} (hps : ∀ p ∈ ps, p.rst = some true) {s : State}
    (h : ps ≠ [] ∨ s.crc = .known 0x0000) : ∃ t, runActions (ps.map .edge) s = .next t ∧ t.crc = .known 0x0000 := by
  induction ps generalizing s with
  | nil => exact ⟨s, rfl, h.resolve_left (not_not_intro rfl)⟩
  | cons p ps ih =>
    obtain ⟨hp, hps⟩ := List.forall_mem_cons.mp hps
    rw [List.map_cons, runActions_cons_of_next (hostAction_reset_edge hp s)]
    exact ih hps (.inr (applyReset_crc _))

/-- No edge takes the value of a register that holds one (R56). -/
theorem blockStep_ne_unknown {c : CrcState} (hc : c ≠ .unknown) (r : Bool) (w : CmdWord) :
    blockStep c r w ≠ .unknown := by
  cases c with
  | unknown => exact absurd rfl hc
  | known v =>
    cases r with
    | true => simp
    | false => cases hw : decode w <;> simp [blockStep, hw]

/-- Each statement that boots the block gives the register a value from any state (R12, R84). -/
theorem blockStep_ne_unknown_of_bootsBlock {x : Stmt} (hx : bootsBlock x = true) (c : CrcState) :
    blockStep c (stmtRst x) (stmtWord x) ≠ .unknown := by
  cases x with
  | nop | update d => cases hx
  | init | initUpdate d | reset => simp

/-- Only a loss of power takes a known register's value, and no action stops the machine while it has one (R76, R84). -/
theorem exists_hostAction_of_known {a : HostAction} {s : State} (hs : s.crc ≠ .unknown) (ha : a ≠ .powerLoss) :
    ∃ t, hostAction a s = .next t ∧ t.crc ≠ .unknown := by
  obtain ⟨p, -, h⟩ | ⟨o, v, -, -, h⟩ | ⟨o, -, hc, -⟩ | ⟨-, h⟩ | ⟨hp, -⟩ := hostAction_cases a s
  · exact ⟨_, h, blockStep_ne_unknown hs _ _⟩
  · exact ⟨_, h, hs⟩
  · exact absurd hc hs
  · exact ⟨_, h, hs⟩
  · exact absurd hp ha

theorem exists_runActions_of_known {as : List HostAction} (has : HostAction.powerLoss ∉ as) {s : State}
    (hs : s.crc ≠ .unknown) : ∃ t, runActions as s = .next t ∧ t.crc ≠ .unknown := by
  induction as generalizing s with
  | nil => exact ⟨s, rfl, hs⟩
  | cons a as ih =>
    obtain ⟨t, ht, hcrc⟩ := exists_hostAction_of_known hs (List.ne_of_not_mem_cons has).symm
    rw [runActions_cons_of_next ht]
    exact ih (List.not_mem_of_not_mem_cons has) hcrc

end Sys2Proof.Machine
end

section
/-! The settled statements about reset, the boot requirement and what may be read between edges. -/

namespace Sys2Proof.Machine

/-- Settles O29: the first edge with `rst` = 1 leaves 0x0000 from any state, and each further one keeps it. -/
theorem resetClearsRegisterAtEveryEdge : Obligations.ResetClearsRegisterAtEveryEdge := by
  unfold Obligations.ResetClearsRegisterAtEveryEdge
  exact ⟨fun s p rest hs hp => step_of_reset_edge hs hp, fun ps s hne hps => exists_runActions_reset_edges hps (.inl hne)⟩

/-- Settles O34: a known register stays known until power is lost; NOP and UPDATE leave an unknown one unknown. -/
theorem bootStatementMakesReadsSafe : Obligations.BootStatementMakesReadsSafe := by
  unfold Obligations.BootStatementMakesReadsSafe
  refine ⟨fun x as hx has => ?_, fun xs o as hxs => ?_⟩
  · rw [runActions_cons_of_next (hostAction_stmtAction x State.powerUp)]
    obtain ⟨t, hrun, -⟩ := exists_runActions_of_known has (s := State.powerUp.countEdge.withCrc _)
      (blockStep_ne_unknown_of_bootsBlock hx State.powerUp.crc)
    exact ⟨t, hrun⟩
  · have hcrc : crcAfterStmts xs State.powerUp.crc = .unknown := crcAfterStmts_continue_unknown hxs
    rw [runActions_stmts_append (runStmts_eq xs State.powerUp), runActions_cons, hcrc]
    simp [hostAction, andThen]

/-- Settles O39: a read only records, so both clauses read the register the statements before it left. -/
theorem outputsShowRegisterAfterLastEdge : Obligations.OutputsShowRegisterAfterLastEdge := by
  unfold Obligations.OutputsShowRegisterAfterLastEdge
  refine ⟨fun xs ys s t u c hxs hc hys => ?_, fun B b s => ?_⟩
  · rw [runActions_stmts_read hxs hc]
    exact hys
  · have hB : crcAfterStmts (.init :: feed B) s.crc = .known (crc16 B) := crcAfterStmts_feed_zero B
    have hb : crcAfterStmts [.update b] (.known (crc16 B)) = .known (crc16 (B ++ [b])) := by
      simp [crc16_snoc]
    exact ⟨_, runActions_two_reads hB hb, rfl⟩

/-- Settles O40: `START` leaves its own message's CRC from any register, and NOPs keep it. -/
theorem backToBackMessagesNeedNoIdleEdge : Obligations.BackToBackMessagesNeedNoIdleEdge := by
  unfold Obligations.BackToBackMessagesNeedNoIdleEdge
  refine ⟨fun A B s => ?_, fun A b s => ?_, fun A n s => ?_⟩
  · rw [List.append_assoc]
    exact ⟨_, runActions_two_reads (crcAfterStmts_start A s.crc) (crcAfterStmts_start B _), rfl, rfl⟩
  · apply exists_runStmts_crc
    rw [crcAfterStmts_append]
    exact crcAfterStmts_start [b] _
  · refine ⟨_, runStmts_eq _ s, ?_⟩
    rw [crcAfterStmts_append, crcAfterStmts_replicate_nop, crcAfterStmts_start]
    rfl

/-- Settles O30: both leave 0x0000 from any register and count one edge. -/
theorem resetAndInitDifferOnlyInPriority : Obligations.ResetAndInitDifferOnlyInPriority := by
  unfold Obligations.ResetAndInitDifferOnlyInPriority
  refine ⟨fun c w => ?_, fun c w₁ w₂ => ?_, fun s => ⟨_, _, runStmts_eq [.reset] s, runStmts_eq [.init] s, rfl⟩⟩
  · rw [blockStep_rst]
    exact (blockStep_init_word c 0x00).symm
  · rw [blockStep_rst, blockStep_rst]

/-- Settles O31: the edge after a reset edge is an edge like any other, from 0x0000. -/
theorem releaseFromResetTakesNoCycles : Obligations.ReleaseFromResetTakesNoCycles := by
  unfold Obligations.ReleaseFromResetTakesNoCycles
  refine ⟨fun p w s hp => ?_, fun d s => ?_⟩
  · rw [runActions_cons_of_next (hostAction_reset_edge hp s), runActions_driven_edge]
    exact ⟨_, rfl, rfl⟩
  · exact exists_runStmts_crc (by simp)

end Sys2Proof.Machine
end

section
/-! SUPPORT. What taking the next action leaves of the state, what no action does to the host's further actions, and one
step as one of the host's actions in the order presented (R30). -/

namespace Sys2Proof.Machine

theorem step_eq (s : State) : step s = hostAction (takeAction s).1 (takeAction s).2 := rfl

/-- Taking an action leaves the block and the edge count as they are, and only the actions behind it in the list. -/
theorem takeAction_eq (s : State) : (takeAction s).2 = { s with pending := s.pending.tail } := by
  obtain ⟨c, as, k, vs⟩ := s
  cases as <;> rfl

theorem takeAction_ne_powerLoss {s : State} (hs : HostAction.powerLoss ∉ s.pending) :
    (takeAction s).1 ≠ .powerLoss := by
  obtain ⟨c, as, k, vs⟩ := s
  cases as with
  | nil => exact HostAction.noConfusion
  | cons a rest => exact (List.ne_of_not_mem_cons hs).symm

/-- An action neither sees nor changes what the host does after it. -/
theorem hostAction_with_pending (a : HostAction) (s : State) (rest : List HostAction) :
    hostAction a { s with pending := rest } = andThen (hostAction a s) fun t => .next { t with pending := rest } := by
  cases a with
  | edge p => simp only [hostAction, clockEdge_eq]; rfl
  | read o =>
    simp only [hostAction]
    cases readPort o s.crc <;> rfl
  | clockStopped => rfl
  | powerLoss => rfl

theorem hostAction_pending {a : HostAction} {s t : State} (h : hostAction a s = .next t) : t.pending = s.pending := by
  have hself := hostAction_with_pending a s s.pending
  rw [h] at hself
  injection hself with ht
  rw [ht]

/-- A booted block takes a step, and is booted after it (R84). -/
theorem exists_step_of_booted {s : State} (hs : Booted s) : ∃ t, step s = .next t ∧ Booted t := by
  obtain ⟨hcrc, hpower⟩ := hs
  have hcrc' : (takeAction s).2.crc ≠ .unknown := by rwa [takeAction_eq]
  obtain ⟨t, ht, htcrc⟩ := exists_hostAction_of_known hcrc' (takeAction_ne_powerLoss hpower)
  refine ⟨t, ht, htcrc, ?_⟩
  rw [hostAction_pending ht, takeAction_eq]
  exact fun h => hpower (List.mem_of_mem_tail h)

/-- As many steps as actions stand in front of the list perform just those, one after another (R30). -/
theorem runSteps_length (as rest : List HostAction) (s : State) :
    runSteps as.length { s with pending := as ++ rest } = runActions as { s with pending := rest } := by
  induction as generalizing s with
  | nil => rfl
  | cons a as ih =>
    have hstep : step { s with pending := a :: as ++ rest } = hostAction a { s with pending := as ++ rest } :=
      step_cons _ a (as ++ rest) rfl
    rw [List.length_cons, runSteps, hstep, runActions_cons, hostAction_with_pending, hostAction_with_pending a s rest,
      andThen_assoc, andThen_assoc]
    exact congrArg (andThen (hostAction a s)) (funext ih)

/-- An edge keeps the register the CRC of the message: reset and the two starts begin a new one, UPDATE adds its byte. -/
theorem blockStep_crcOfMessage (m : Option (List Byte)) (r : Bool) (w : CmdWord) :
    blockStep (crcOfMessage m) r w = crcOfMessage (if r then some [] else messageAfterCommand (decode w) m) := by
  cases r with
  | true => rfl
  | false =>
    unfold blockStep messageAfterCommand
    cases decode w with
    | nop | init | initUpdate d => rfl
    | update d =>
      cases m with
      | none => rfl
      | some B => exact congrArg CrcState.known (crc16_snoc B d).symm

/-- Every action of the host keeps the register the CRC of the message (R50, R80, R81). -/
theorem hostAction_tracks_message {m : Option (List Byte)} {a : HostAction} {s t : State} (hs : s.crc = crcOfMessage m)
    (ht : hostAction a s = .next t) : t.crc = crcOfMessage (messageAfter s.edges a m) := by
  obtain ⟨p, rfl, h⟩ | ⟨o, v, rfl, -, h⟩ | ⟨o, rfl, -, h⟩ | ⟨rfl, h⟩ | ⟨rfl, h⟩ := hostAction_cases a s <;>
    cases ht.symm.trans h
  · rw [withCrc_crc, hs, blockStep_crcOfMessage]
    rfl
  · exact hs
  · exact hs
  · rfl

end Sys2Proof.Machine
end

section
/-! The settled statements about what every step keeps and about the order of actions. -/

namespace Sys2Proof.Machine

/-- Settles O43: the step of a booted block is unique, so what one next state keeps, each does. -/
theorem bootedIsKeptByEveryStep : Obligations.BootedIsKeptByEveryStep := by
  unfold Obligations.BootedIsKeptByEveryStep
  refine ⟨fun s t hs ht => ?_, fun s hs => ?_⟩
  · obtain ⟨u, hu, hbooted⟩ := exists_step_of_booted hs
    cases ht.symm.trans hu
    exact hbooted
  · obtain ⟨t, ht, -⟩ := exists_step_of_booted hs
    exact ⟨t, ht⟩

/-- Settles O45: taking an action leaves register and edge count, and every action keeps the message's CRC. -/
theorem registerTracksMessageAtEveryStep : Obligations.RegisterTracksMessageAtEveryStep := by
  unfold Obligations.RegisterTracksMessageAtEveryStep
  intro m s t hs ht
  rw [step_eq, takeAction_eq] at ht
  exact hostAction_tracks_message (s := { s with pending := s.pending.tail }) hs ht

/-- Settles O19: `runSteps_length` is an equality of outcomes, so it gives the next state and the fault alike. -/
theorem actionsTakeEffectInPresentedOrder : Obligations.ActionsTakeEffectInPresentedOrder := by
  unfold Obligations.ActionsTakeEffectInPresentedOrder
  exact ⟨fun as rest s t ht => (runSteps_length as rest s).trans ht,
    fun as rest s f hf => (runSteps_length as rest s).trans hf, by decide +kernel, by decide +kernel⟩

/-- Settles O44. -/
theorem resetStateIsBooted : Obligations.ResetStateIsBooted := by
  unfold Obligations.ResetStateIsBooted
  decide

/-- Settles O46. -/
theorem trackedMessageAtResetAndPowerUp : Obligations.TrackedMessageAtResetAndPowerUp := by
  unfold Obligations.TrackedMessageAtResetAndPowerUp
  exact ⟨rfl, rfl⟩

/-- Settles O58. -/
theorem powerLossLeavesHostSide : Obligations.PowerLossLeavesHostSide := by
  unfold Obligations.PowerLossLeavesHostSide
  exact fun s rest hs => step_of_powerLoss hs

/-- Settles O41: the levels are the ones sampled, drawn where the pin is undriven. -/
theorem undrivenPinsTakeSomeLevel : Obligations.UndrivenPinsTakeSomeLevel := by
  unfold Obligations.UndrivenPinsTakeSomeLevel
  refine ⟨fun s p rest hs => ?_, fun s hs => ?_⟩
  · refine ⟨_, _, _, _, ?_, ?_, ?_, ?_, step_of_edge hs⟩ <;> (intro b hb; simp [sampledRst, hb])
  · exact ⟨_, _, (step_nil s hs).trans (clockEdge_eq Pins.undriven s)⟩

end Sys2Proof.Machine
end

section
/-! SUPPORT. The register after a message that goes on without a start (R85), and the update function as linear in both
arguments together (R51). -/

namespace Sys2Proof.Machine

theorem crcAfterStmts_start_feed (A B : List Byte) (c : CrcState) :
    crcAfterStmts (start A ++ feed B) c = .known (crc16 (A ++ B)) := by
  rw [crcAfterStmts_append, crcAfterStmts_start, crcAfterStmts_feed, crc16_append]

theorem step8_xor (c₁ c₂ : Word) (d₁ d₂ : Byte) : step8 (c₁ ^^^ c₂) (d₁ ^^^ d₂) = step8 c₁ d₁ ^^^ step8 c₂ d₂ := by
  rw [step8, step8, step8, ← crcRounds_xor, dataOperand_xor]
  congr 1
  ac_rfl

end Sys2Proof.Machine
end

section
/-! The settled statements about linearity, messages in a row, and what a command writes. -/

namespace Sys2Proof.Machine

/-- Settles O9: rounds and the byte's entry are linear, and so is what they make together. -/
theorem step8IsLinear : Obligations.Step8IsLinear := by
  unfold Obligations.Step8IsLinear
  exact ⟨step8_xor, tableT_zero⟩

/-- Settles O17: FEED goes on from the register START left; a second START leaves its own message's CRC. -/
theorem missingStartContinuesMessage : Obligations.MissingStartContinuesMessage := by
  unfold Obligations.MissingStartContinuesMessage
  intro A B s
  refine ⟨exists_runStmts_crc (crcAfterStmts_start_feed A B s.crc), exists_runStmts_crc ?_⟩
  rw [crcAfterStmts_append, crcAfterStmts_start]

/-- Settles O18: the inner START and its FEED leave their own CRC from any register, so from the outer one's. -/
theorem interleavedStartReplacesOuterMessage : Obligations.InterleavedStartReplacesOuterMessage := by
  unfold Obligations.InterleavedStartReplacesOuterMessage
  intro A B C s
  apply exists_runStmts_crc
  rw [List.append_assoc, crcAfterStmts_append, crcAfterStmts_start_feed]

/-- Settles O5: `exec_eq` writes the register only. -/
theorem commandsWriteOnlyCrc : Obligations.CommandsWriteOnlyCrc := by
  unfold Obligations.CommandsWriteOnlyCrc
  intro i s
  refine ⟨_, exec_eq i s, rfl, rfl, rfl, ?_, ?_⟩
  · rintro rfl
    rfl
  · rintro d rfl hc
    rw [hc]
    rfl

/-- Settles O57: START leaves the message's CRC from `unknown` too, and NOP keeps it. -/
theorem checkValueFromUnresetBlock : Obligations.CheckValueFromUnresetBlock := by
  unfold Obligations.CheckValueFromUnresetBlock
  apply exists_runStmts_crc
  rw [crcAfterStmts_append, crcAfterStmts_start, crcAfterStmts_cons, blockStep_nop, crcAfterStmts_nil]
  decide +kernel

end Sys2Proof.Machine
end

section
/-! SUPPORT. The config sequences on the state `START` leaves (R67, R68), a stored block as the covered bytes and two CRC
bytes (R66), and the edges a sequence takes (R89). -/

namespace Sys2Proof.Machine

theorem edges_of_runStmts {xs : List Stmt} {s t : State} (h : runStmts xs s = .next t) :
    t.edges = s.edges + xs.length := by
  cases h.symm.trans (runStmts_eq xs s)
  rfl

/-- `START` of no byte is one INIT, so it takes an edge too (R41). -/
theorem start_length_eq_max (B : List Byte) : (start B).length = max B.length 1 := by
  cases B with
  | nil => rfl
  | cons b B => rw [start_length (List.cons_ne_nil b B), List.length_cons]; omega

@[simp] theorem storedCrcBytes_length (order : Config.ByteOrder) (c : Word) : (storedCrcBytes order c).length = 2 := by
  cases order <;> rfl

/-- The two CRC bytes of a block are written and read in the same order (R26). -/
theorem exists_storedCrcBytes_eq (order : Config.ByteOrder) (c : Word) :
    ∃ k₀ k₁, storedCrcBytes order c = [k₀, k₁] ∧ storedCrc order k₀ k₁ = c := by
  cases order <;> exact ⟨_, _, rfl, joinBytes_bytes c⟩

/-- `GEN_CONFIG_CRC` answers the state `START` of the image leaves, and the image with its CRC in the stored order. -/
theorem exists_genConfigCrc {p : Config.Params} (S : ConfigImage p) (s : State) :
    ∃ t, runStmts (start S.bytes) s = .next t ∧ t.crc = .known (crc16 S.bytes) ∧
      genConfigCrc p S s = .next (t, S.bytes ++ storedCrcBytes p.cfgCrcOrder (crc16 S.bytes)) := by
  obtain ⟨t, hrun, hcrc⟩ := exists_runStmts_start S.bytes s
  refine ⟨t, hrun, hcrc, ?_⟩
  rw [genConfigCrc, hrun]
  simp only [andThen, hcrc]
  rfl

/-- A stored block is the bytes its CRC covers and the two bytes behind them (R66). -/
theorem configBlock_bytes_eq {p : Config.Params} {K : ConfigBlock p} {k₀ k₁ : Byte}
    (h₀ : K.bytes[p.cfgLen]? = some k₀) (h₁ : K.bytes[p.cfgLen + 1]? = some k₁) :
    K.bytes = K.bytes.take p.cfgLen ++ [k₀, k₁] := by
  calc K.bytes
      = K.bytes.take (p.cfgLen + 1 + 1) := (List.take_of_length_le K.length_eq.le).symm
    _ = K.bytes.take p.cfgLen ++ [k₀, k₁] := by simp [List.take_add_one, h₀, h₁]

theorem exists_configBlock_bytes_eq {p : Config.Params} (K : ConfigBlock p) :
    ∃ S k₀ k₁, S.length = p.cfgLen ∧ K.bytes = S ++ [k₀, k₁] := by
  have hK := K.length_eq
  exact ⟨_, _, _, List.length_take_of_le (by omega), configBlock_bytes_eq
    (List.getElem?_eq_getElem (by omega)) (List.getElem?_eq_getElem (by omega))⟩

section

variable {p : Config.Params} {K : ConfigBlock p} {S : List Byte} {k₀ k₁ : Byte}

/-- The comparison form reads `crc_out` after `START` of the covered bytes (R68). -/
theorem exists_checkConfig (hS : S.length = p.cfgLen) (hK : K.bytes = S ++ [k₀, k₁]) (s : State) :
    ∃ t, runStmts (start S) s = .next t ∧ checkConfig p K s =
      .next (t, if crc16 S = storedCrc p.cfgCrcOrder k₀ k₁ then .ok else .configCrcMismatch) := by
  obtain ⟨t, hrun, hcrc⟩ := exists_runStmts_start S s
  refine ⟨t, hrun, ?_⟩
  rw [checkConfig, hK, ← hS, List.take_left, hrun]
  simp only [andThen, hcrc]
  simp [readCrcOut, readRegister, hostRead]

/-- The residue form asks of the covered bytes' CRC that the two bytes behind them be it, high byte first (R68). -/
theorem exists_checkConfigResidue (hK : K.bytes = S ++ [k₀, k₁]) (s : State) :
    ∃ t, checkConfigResidue p K s =
      .next (t, if crc16 S = joinBytes k₀ k₁ then .ok else .configCrcMismatch) := by
  obtain ⟨t, hrun, hcrc⟩ := exists_runStmts_start (S ++ [k₀, k₁]) s
  refine ⟨t, ?_⟩
  rw [checkConfigResidue, hK, hrun]
  simp only [eq_comm (a := crc16 S), ← crc16_append_pair_eq_zero_iff]
  simp [andThen, hcrc, hostRead]

end

/-- The block of V-CFG-2, whose CRC 0xD406 is stored low byte first. -/
def littleEndianBlock : ConfigBlock ⟨4, .littleEndian⟩ := ⟨[0x03, 0x00, 0x2C, 0x01] ++ [0x06, 0xD4], rfl⟩

theorem crc16_littleEndianBlock : crc16 [0x03, 0x00, 0x2C, 0x01] = 0xD406 := by decide +kernel

end Sys2Proof.Machine
end

section
/-! The settled statements about the config sequences and the edges of all five. -/

namespace Sys2Proof.Machine

/-- Settles O53: the register after START of the image is its CRC; an image of no bytes is the empty message. -/
theorem genConfigCrcAppendsCrcInOrder : Obligations.GenConfigCrcAppendsCrcInOrder := by
  unfold Obligations.GenConfigCrcAppendsCrcInOrder
  intro p S s
  obtain ⟨t, hrun, hcrc, hgen⟩ := exists_genConfigCrc S s
  refine ⟨t, hrun, hcrc, hgen, fun hlen => ?_⟩
  rw [List.eq_nil_of_length_eq_zero (S.length_eq.trans hlen)]
  rfl

/-- Settles O54: under BigEndian the stored value is the joined pair that the residue law asks for; V-CFG-2 stores it the
other way round. -/
theorem checkConfigComparesStoredCrc : Obligations.CheckConfigComparesStoredCrc := by
  unfold Obligations.CheckConfigComparesStoredCrc
  refine ⟨fun p K s k₀ k₁ h₀ h₁ => ?_, fun p K s hp => ?_, ⟨4, .littleEndian⟩, littleEndianBlock, rfl, fun s => ?_⟩
  · have hK := K.length_eq
    obtain ⟨t, -, ht⟩ := exists_checkConfig (List.length_take_of_le (by omega)) (configBlock_bytes_eq h₀ h₁) s
    exact ⟨t, ht⟩
  · obtain ⟨S, k₀, k₁, hS, hK⟩ := exists_configBlock_bytes_eq K
    obtain ⟨t, -, ht⟩ := exists_checkConfig hS hK s
    obtain ⟨u, hu⟩ := exists_checkConfigResidue hK s
    rw [hp] at ht
    exact ⟨t, u, _, ht, hu⟩
  · obtain ⟨t, -, ht⟩ := exists_checkConfig (K := littleEndianBlock) rfl rfl s
    obtain ⟨u, hu⟩ := exists_checkConfigResidue (K := littleEndianBlock) rfl s
    rw [crc16_littleEndianBlock] at ht hu
    exact ⟨t, u, ht, hu⟩

/-- Settles O55: the two CRC bytes are read back in the order in which they were written. -/
theorem savedConfigLoads : Obligations.SavedConfigLoads := by
  unfold Obligations.SavedConfigLoads
  intro p S s
  obtain ⟨t, -, -, hgen⟩ := exists_genConfigCrc S s
  have hlen : (S.bytes ++ storedCrcBytes p.cfgCrcOrder (crc16 S.bytes)).length = p.cfgLen + 2 := by
    simp [S.length_eq]
  refine ⟨t, _, hgen, hlen, fun s' => ?_⟩
  obtain ⟨k₀, k₁, hbytes, hstored⟩ := exists_storedCrcBytes_eq p.cfgCrcOrder (crc16 S.bytes)
  obtain ⟨u, -, hu⟩ := exists_checkConfig (K := ⟨_, hlen⟩) S.length_eq (congrArg (S.bytes ++ ·) hbytes) s'
  rw [if_pos hstored.symm] at hu
  exact ⟨u, hu⟩

/-- Settles O56: each sequence sends `START` of its bytes, one statement per edge, and reads take none. -/
theorem sequencesTakeStatedEdgeCounts : Obligations.SequencesTakeStatedEdgeCounts := by
  unfold Obligations.SequencesTakeStatedEdgeCounts
  refine ⟨fun P s => ?_, fun R s hR => ?_, fun R s hR => ?_, fun p S s => ?_, fun p K s => ?_⟩
  · obtain ⟨t, hgen, hrun⟩ := exists_genFrameCrc P s
    exact ⟨t, _, hgen, edges_of_runStmts hrun⟩
  · obtain ⟨t, hrun, hcrc⟩ := exists_runStmts_start (R.take 10) s
    refine ⟨t, _, checkFrame_of_run hR hrun hcrc, ?_⟩
    rw [edges_of_runStmts hrun, start_take_length (by decide) (by omega)]
  · obtain ⟨t, hrun, hcrc⟩ := exists_runStmts_start (R.take 12) s
    refine ⟨t, _, checkFrameResidue_of_run hR hrun hcrc, ?_⟩
    rw [edges_of_runStmts hrun, start_take_length (by decide) hR]
  · obtain ⟨t, hrun, -, hgen⟩ := exists_genConfigCrc S s
    refine ⟨t, _, hgen, ?_⟩
    rw [edges_of_runStmts hrun, start_length_eq_max, S.length_eq]
  · obtain ⟨S, k₀, k₁, hS, hK⟩ := exists_configBlock_bytes_eq K
    obtain ⟨t, hrun, ht⟩ := exists_checkConfig hS hK s
    refine ⟨t, _, ht, ?_⟩
    rw [edges_of_runStmts hrun, start_length_eq_max, hS]

end Sys2Proof.Machine
end

section
/-! SUPPORT. The text of a byte and of a statement, read back by the assembler (R40). -/

namespace Sys2Proof.Machine

theorem hexDigit_hexChar : ∀ n < 16, hexDigit (hexChar n) = some n := by decide

theorem hexChar_ne_space : ∀ n < 16, hexChar n ≠ ' ' := by decide

/-- Two hexadecimal digits read as the byte they write. -/
theorem numberValue_byteText (d : Byte) : numberValue (byteText d) = some d.toNat := by
  have hd : d.toNat < 256 := d.isLt
  have hhi := hexDigit_hexChar (d.toNat / 16) (by omega)
  have hlo := hexDigit_hexChar (d.toNat % 16) (by omega)
  simp only [numberValue, byteText, digitsValue, hhi, hlo]
  exact congrArg some (by omega)

@[simp] theorem operandByte_byteText (d : Byte) : operandByte (byteText d) = .ok d := by
  have hd : d.toNat ≤ 255 := Nat.le_of_lt_succ d.isLt
  simp [operandByte, numberValue_byteText, WellFormed.byteOperand, hd]

theorem operandByte_of_too_large {cs : List Char} {n : Nat} (hcs : numberValue cs = some n) (hn : 255 < n) :
    operandByte cs = .error .badOperand := by
  simp [operandByte, hcs, WellFormed.byteOperand, hn]

/-- No space stands at either end of a text that closes with a byte and does not begin with a space. -/
theorem trimSpaces_append_byteText {cs : List Char} (hcs : ∀ c ∈ cs.head?, c ≠ ' ') (d : Byte) :
    trimSpaces (cs ++ byteText d) = cs ++ byteText d := by
  have hlast : hexChar (d.toNat % 16) ≠ ' ' := hexChar_ne_space _ (Nat.mod_lt _ (by decide))
  cases cs with
  | nil => simp [trimSpaces, byteText, hlast]
  | cons c cs =>
    have hc : c ≠ ' ' := hcs c rfl
    simp [trimSpaces, byteText, hc, hlast]

/-- The operand's byte behind the space that ends a mnemonic. -/
theorem operandByte_space_byteText (d : Byte) : operandByte (trimSpaces (' ' :: byteText d)) = .ok d := by
  have htrim : trimSpaces (' ' :: byteText d) = byteText d := trimSpaces_append_byteText (cs := []) (by simp) d
  rw [htrim, operandByte_byteText]

/-- A statement's text assembles to it: its mnemonic selects the branch, its byte is the operand. -/
theorem assembleLine_stmtText (x : Stmt) : assembleLine (stmtText x) = .ok [x] := by
  cases x with
  | nop | init | reset => rfl
  | update d =>
    have htext : trimSpaces (stmtText (.update d)) = stmtText (.update d) := trimSpaces_append_byteText (by simp) d
    rw [assembleLine, htext]
    exact congrArg (Except.map fun b => [Stmt.update b]) (operandByte_space_byteText d)
  | initUpdate d =>
    have htext : trimSpaces (stmtText (.initUpdate d)) = stmtText (.initUpdate d) :=
      trimSpaces_append_byteText (by simp) d
    rw [assembleLine, htext]
    exact congrArg (Except.map fun b => [Stmt.initUpdate b]) (operandByte_space_byteText d)

/-- Where the assembler's word is a command's canonical word (R40), the decoder answers that command (R42). -/
theorem eq_encode_and_decode {w : CmdWord} {i : Instr} (h : w = encode i) : w = encode i ∧ decode w = i :=
  ⟨h, by rw [h, decode_encode]⟩

end Sys2Proof.Machine
end

section
/-! The settled statements about the assembler and written-out words. -/

namespace Sys2Proof.Machine

/-- Settles O27: a text without operand is read as it stands; one with a byte by `operandByte_byteText` after its name. -/
theorem assemblerReadsStatementText : Obligations.AssemblerReadsStatementText := by
  unfold Obligations.AssemblerReadsStatementText
  refine ⟨assembleLine_stmtText, eq_encode_and_decode rfl, fun d => eq_encode_and_decode (stmtWord_update d),
    eq_encode_and_decode rfl, fun d => eq_encode_and_decode (stmtWord_initUpdate d), fun x => ?_, rfl,
    fun cs n hcs hn => operandByte_of_too_large hcs hn⟩
  cases x <;> simp [stmtRst]

/-- Settles O25. -/
theorem writtenOutWordsDecode : Obligations.WrittenOutWordsDecode := by
  unfold Obligations.WrittenOutWordsDecode
  decide

end Sys2Proof.Machine
end
